-- ==== Sys2Proof/Word.lean ====
section
/-! DEFINITION. The data types of the core: the byte, the 4-byte word, the 4x4 Block and the 32-bit command word
(spec/00_scope.md R6, R8, R9; spec/30_encoding.md R60; spec/42_key_schedule.md R111). -/

namespace Sys2Proof

/-- A byte, bits 7 (most significant) down to 0 (R6). -/
abbrev Byte := BitVec 8

/-- A byte sequence: a payload or a text (R8, R46). -/
abbrev Bytes := List Byte

/-- A command word `CW`, bit 31 the most significant (R60). -/
abbrev CommandWord := BitVec 32

/-- A sequence of four bytes `(t0, t1, t2, t3)`: a row of a Block, or a column, the byte in row `i` being `ti` (R9, R111). -/
structure Word where
  t0 : Byte
  t1 : Byte
  t2 : Byte
  t3 : Byte
  deriving DecidableEq, Repr

/-- A 4x4 Block of bytes as its four rows (R9). A Block has no identity beyond its byte content. -/
structure Block where
  r0 : Word
  r1 : Word
  r2 : Word
  r3 : Word
  deriving DecidableEq, Repr

end Sys2Proof
end

