-- ==== Sys2Proof/Syntax.lean ====
section
/-! DEFINITION. The 24 commands of the command set, version 1, the four formats of a command word and the two ways a
word is illegal (spec/30_encoding.md R61, R62, R63, R64). -/

namespace Sys2Proof

/-- One constructor per row of the opcode map (R63), in the map's order, with the operand fields its format uses.
Operands are whole unsigned bytes (R62): an index outside its range is an instruction too, and faults when it runs. -/
inductive Instr where
  | get (a b : Byte)
  | set (a b c : Byte)
  | ldblk
  | stblk
  | subbytes
  | invsubbytes
  | shiftrows
  | invshiftrows
  | mixcolumns
  | invmixcolumns
  | addrk (a : Byte)
  | addrki
  | setkey
  | getrk (a : Byte)
  | clrkey
  | gmul (a b : Byte)
  | xtime (a : Byte)
  | encblk
  | decblk
  | encrypt
  | decrypt
  | b64enc
  | b64dec
  | rdstat
  deriving DecidableEq, Repr

/-- The four formats of a command word: which of the fields `a`, `b`, `c` a command uses (R61). -/
inductive Format where
  | n
  | a
  | ab
  | abc
  deriving DecidableEq, Repr

/-- Why a command word selects no command (R64); both raise IllegalCommand. -/
inductive Illegal where
  /-- `CW.op` is none of the 24 opcodes (R64 a). -/
  | unlistedOpcode (op : Byte)
  /-- A field that the command's format does not use is not zero (R64 b). -/
  | unusedFieldNotZero (op : Byte)
  deriving DecidableEq, Repr

end Sys2Proof
end

