-- ==== Sys2Proof/Decode.lean ====
section
/-! DEFINITION. Decoding and encoding of command words (spec/30_encoding.md R60, R61, R63, R64, R65, R67). -/

namespace Sys2Proof

/-- Bits 31:24 of a command word (R60). -/
def fieldOp (cw : CommandWord) : Byte := cw.extractLsb' 24 8

/-- Bits 23:16 of a command word (R60). -/
def fieldA (cw : CommandWord) : Byte := cw.extractLsb' 16 8

/-- Bits 15:8 of a command word (R60). -/
def fieldB (cw : CommandWord) : Byte := cw.extractLsb' 8 8

/-- Bits 7:0 of a command word (R60). -/
def fieldC (cw : CommandWord) : Byte := cw.extractLsb' 0 8

/-- The mask of a format: `op` and the fields the format does not use (R61). -/
def formatMask : Format → CommandWord
  | .n => 0xFFFFFFFF#32
  | .a => 0xFF00FFFF#32
  | .ab => 0xFF0000FF#32
  | .abc => 0xFF000000#32

/-- `op * 2^24`: the match value of a row (R61). -/
def opMatch (op : Byte) : CommandWord := op.setWidth 32 <<< 24

/-- The second test of R65: the word's masked bits are the row's match value, else an unused field is not zero. -/
def checkFormat (f : Format) (cw : CommandWord) (i : Instr) : Except Illegal Instr :=
  if cw &&& formatMask f = opMatch (fieldOp cw) then .ok i else .error (.unusedFieldNotZero (fieldOp cw))

/-- `decode(CW)` (R65): the row of R63 whose op equals `CW.op`, then the test of the unused fields. It looks at the
word alone and it is total. -/
def decode (cw : CommandWord) : Except Illegal Instr :=
  let a := fieldA cw
  let b := fieldB cw
  let c := fieldC cw
  match (fieldOp cw).toNat with
  | 0x01 => checkFormat .ab cw (.get a b)
  | 0x02 => checkFormat .abc cw (.set a b c)
  | 0x03 => checkFormat .n cw .ldblk
  | 0x04 => checkFormat .n cw .stblk
  | 0x10 => checkFormat .n cw .subbytes
  | 0x11 => checkFormat .n cw .invsubbytes
  | 0x12 => checkFormat .n cw .shiftrows
  | 0x13 => checkFormat .n cw .invshiftrows
  | 0x14 => checkFormat .n cw .mixcolumns
  | 0x15 => checkFormat .n cw .invmixcolumns
  | 0x16 => checkFormat .a cw (.addrk a)
  | 0x17 => checkFormat .n cw .addrki
  | 0x20 => checkFormat .n cw .setkey
  | 0x21 => checkFormat .a cw (.getrk a)
  | 0x22 => checkFormat .n cw .clrkey
  | 0x30 => checkFormat .ab cw (.gmul a b)
  | 0x31 => checkFormat .a cw (.xtime a)
  | 0x40 => checkFormat .n cw .encblk
  | 0x41 => checkFormat .n cw .decblk
  | 0x50 => checkFormat .n cw .encrypt
  | 0x51 => checkFormat .n cw .decrypt
  | 0x60 => checkFormat .n cw .b64enc
  | 0x61 => checkFormat .n cw .b64dec
  | 0x70 => checkFormat .n cw .rdstat
  | _ => .error (.unlistedOpcode (fieldOp cw))

/-- The opcode of a command (R63). -/
def opcodeOf : Instr → Byte
  | .get _ _ => 0x01#8
  | .set _ _ _ => 0x02#8
  | .ldblk => 0x03#8
  | .stblk => 0x04#8
  | .subbytes => 0x10#8
  | .invsubbytes => 0x11#8
  | .shiftrows => 0x12#8
  | .invshiftrows => 0x13#8
  | .mixcolumns => 0x14#8
  | .invmixcolumns => 0x15#8
  | .addrk _ => 0x16#8
  | .addrki => 0x17#8
  | .setkey => 0x20#8
  | .getrk _ => 0x21#8
  | .clrkey => 0x22#8
  | .gmul _ _ => 0x30#8
  | .xtime _ => 0x31#8
  | .encblk => 0x40#8
  | .decblk => 0x41#8
  | .encrypt => 0x50#8
  | .decrypt => 0x51#8
  | .b64enc => 0x60#8
  | .b64dec => 0x61#8
  | .rdstat => 0x70#8

/-- The format of a command (R61, R63). -/
def formatOf : Instr → Format
  | .get _ _ => .ab
  | .set _ _ _ => .abc
  | .addrk _ => .a
  | .getrk _ => .a
  | .gmul _ _ => .ab
  | .xtime _ => .a
  | .ldblk | .stblk | .subbytes | .invsubbytes | .shiftrows | .invshiftrows | .mixcolumns | .invmixcolumns
  | .addrki | .setkey | .clrkey | .encblk | .decblk | .encrypt | .decrypt | .b64enc | .b64dec | .rdstat => .n

/-- A command word put together from its four fields, `op` on top (R60). -/
def packWord (op a b c : Byte) : CommandWord := op ++ a ++ b ++ c

/-- The one word of a command (R63): its opcode, its operands in the fields its format uses, zero elsewhere. -/
def encode (i : Instr) : CommandWord :=
  match i with
  | .get a b => packWord (opcodeOf i) a b 0
  | .set a b c => packWord (opcodeOf i) a b c
  | .addrk a => packWord (opcodeOf i) a 0 0
  | .getrk a => packWord (opcodeOf i) a 0 0
  | .gmul a b => packWord (opcodeOf i) a b 0
  | .xtime a => packWord (opcodeOf i) a 0 0
  | .ldblk | .stblk | .subbytes | .invsubbytes | .shiftrows | .invshiftrows | .mixcolumns | .invmixcolumns
  | .addrki | .setkey | .clrkey | .encblk | .decblk | .encrypt | .decrypt | .b64enc | .b64dec
  | .rdstat => packWord (opcodeOf i) 0 0 0

/-- The command word whose bits are `w`, bit 0 the least significant; of its bits `nbits` are given, the rest are zero. -/
def tableWord (nbits w : Nat) : CommandWord := BitVec.ofNat 32 (w % 2 ^ nbits)

/-- The command that the decoder reads from the word with the bits `w`; none where the word is illegal. -/
def decodeTableWord (nbits w : Nat) : Option Instr :=
  match decode (tableWord nbits w) with
  | .ok i => some i
  | .error _ => none

end Sys2Proof
end

