-- ==== Sys2Proof/Machine/Base64.lean ====
section
/-! DEFINITION. The base64 codec (spec/46_base64.md R160 to R163). -/

namespace Sys2Proof.Machine

/-- `ALPHA[v]`, by the five ranges of the alphabet table (R160). -/
def alpha (v : BitVec 6) : Byte :=
  let n := v.toNat
  if n ≤ 25 then BitVec.ofNat 8 (0x41 + n)
  else if n ≤ 51 then BitVec.ofNat 8 (0x61 + (n - 26))
  else if n ≤ 61 then BitVec.ofNat 8 (0x30 + (n - 52))
  else if n = 62 then 0x2B#8
  else 0x2F#8

/-- The pad character `=`, which is not part of the alphabet (R160). -/
def padChar : Byte := 0x3D#8

/-- `val(x)`: the value of an alphabet character, none for the other 192 bytes (R163). -/
def charValue (x : Byte) : Option (BitVec 6) :=
  let n := x.toNat
  if 0x41 ≤ n ∧ n ≤ 0x5A then some (BitVec.ofNat 6 (n - 0x41))
  else if 0x61 ≤ n ∧ n ≤ 0x7A then some (BitVec.ofNat 6 (n - 0x61 + 26))
  else if 0x30 ≤ n ∧ n ≤ 0x39 then some (BitVec.ofNat 6 (n - 0x30 + 52))
  else if n = 0x2B then some 62#6
  else if n = 0x2F then some 63#6
  else none

/-- `b64encode(q)`: groups of 3 bytes, the first byte most significant, to 4 characters; a final group of 1 or 2 bytes is
filled with zero bits and ends in `==` or `=` (R161). -/
def b64encode : Bytes → Bytes
  | x :: y :: z :: rest =>
    let w : BitVec 24 := x ++ y ++ z
    alpha (w.extractLsb' 18 6) :: alpha (w.extractLsb' 12 6) :: alpha (w.extractLsb' 6 6) :: alpha (w.extractLsb' 0 6)
      :: b64encode rest
  | [x, y] =>
    [alpha (x.extractLsb' 2 6), alpha (x.extractLsb' 0 2 ++ y.extractLsb' 4 4), alpha (y.extractLsb' 0 4 ++ 0#2), padChar]
  | [x] => [alpha (x.extractLsb' 2 6), alpha (x.extractLsb' 0 2 ++ 0#4), padChar, padChar]
  | [] => []

/-- The scan of the decoder: the values of the leading alphabet characters; the first other byte stops it (R162). -/
def scanText : Bytes → List (BitVec 6)
  | [] => []
  | x :: t =>
    match charValue x with
    | some v => v :: scanText t
    | none => []

/-- The inverse grouping of 6-bit values: 4 give 3 bytes, 3 left over give 2, 2 give 1, 1 gives none (R162). -/
def ungroup : List (BitVec 6) → Bytes
  | a :: b :: c :: d :: rest =>
    let w : BitVec 24 := a ++ b ++ c ++ d
    w.extractLsb' 16 8 :: w.extractLsb' 8 8 :: w.extractLsb' 0 8 :: ungroup rest
  | [a, b, c] => [a ++ b.extractLsb' 4 2, b.extractLsb' 0 4 ++ c.extractLsb' 2 4]
  | [a, b] => [a ++ b.extractLsb' 4 2]
  | [_] => []
  | [] => []

/-- `b64decode(t)`, total on every byte sequence (R162). -/
def b64decode (t : Bytes) : Bytes := ungroup (scanText t)

end Sys2Proof.Machine
end

