-- ==== Sys2Proof/Config.lean ====
section
/-! DEFINITION. What the spec leaves to an implementation: the parameter MAX_PAYLOAD (spec/00_scope.md R5) and the
free values, the bytes the spec calls unspecified (spec/10_state.md R31, spec/42_key_schedule.md R115). -/

namespace Sys2Proof

/-- `MAX_PAYLOAD`, the largest input payload a command accepts: infinity, or a natural number that is at least 16
(R5), written as `16 + room` so that no smaller value exists. -/
inductive PayloadLimit where
  | infinity
  | atLeast16 (room : Nat)
  deriving DecidableEq, Repr

/-- The free bytes: byte number `n` of those the spec leaves unspecified. It has no body, so a claim that holds of it
holds for every value (log entry 2). -/
opaque Config.freeByte : Nat → Byte

end Sys2Proof
end

