-- ==== Sys2Proof/Machine/State.lean ====
section
/-! DEFINITION. The state of the machine: the core's architectural state (spec/10_state.md R22 to R26), the payload of
the command in progress, the responses given and the host's remaining actions (R11, R30, spec/70_reset_and_hazards.md
R231, R232), and the state after reset (R31). -/

namespace Sys2Proof.Machine

/-- The seven fault codes (spec/60_exceptions.md R190). A command that ends with one goes on to a next state (R199). -/
inductive FaultCode where
  | illegalCommand
  | overrun
  | lengthError
  | invalidKeyLength
  | indexError
  | noKey
  | decodeError
  deriving DecidableEq, Repr

/-- What the host gets back for a command: the status `ST` and the output payload `OUT` (R11). -/
structure Response where
  ST : Byte
  OUT : Bytes
  deriving DecidableEq, Repr

/-- The host's two actions (R21, R231). -/
inductive HostAction where
  /-- Issue a command: a command word `CW` and an input payload `IN`. -/
  | command (cw : CommandWord) (payload : Bytes)
  /-- Reset the core (R220). -/
  | reset
  deriving DecidableEq, Repr

/-- The machine's state. `S`, `RK`, `KEYV` and `FAULTS` are the architectural state; the other fields are the command
port and its host, the parameter and the counter of free values (log entries 2, 4, 5, 6). -/
structure State where
  /-- The state-block register (R22). -/
  S : Block
  /-- The eleven round keys (R23). -/
  RK : Vector Block 11
  /-- The key-valid flag (R24). -/
  KEYV : Bool
  /-- The sticky fault mask (R25). -/
  FAULTS : Byte
  /-- `IN`, the input payload of the command in progress; empty between commands (R30). -/
  input : Bytes
  /-- The responses given so far, oldest first (R232). -/
  responses : List Response
  /-- The host's remaining actions, next one first (R28, R232). -/
  pending : List HostAction
  /-- `MAX_PAYLOAD`; no step writes it (R5). -/
  maxPayload : PayloadLimit
  /-- How many free bytes have been taken; the next free byte is number `freeCount`. -/
  freeCount : Nat
  deriving DecidableEq, Repr

/-- Reasons to stop with a fault. There is none: a fault of the spec is a status code after which the core accepts the
next command, "never left stuck or halted by a fault" (R199), so this type is empty and no step answers with it. -/
inductive Fault where
  deriving DecidableEq, Repr

/-- Reasons to refuse an instruction. -/
inductive Refusal where
  /-- Raised by exec for an instruction that has no meaning yet, under its mnemonic. Safe: the model stops where the
  hardware goes on. No arm of exec uses it. -/
  | notModelled (mnemonic : String)
  deriving DecidableEq, Repr

/-- A word of four equal bytes. -/
def splatWord (v : Byte) : Word := ⟨v, v, v, v⟩

/-- A Block of sixteen equal bytes. -/
def splatBlock (v : Byte) : Block := ⟨splatWord v, splatWord v, splatWord v, splatWord v⟩

/-- The state right after reset (R31, R220): `KEYV = 0` and `FAULTS = 0x00` are the spec's. DESIGN CHOICE (log entry 1),
unsafe: the spec leaves `S` and `RK` unspecified and this state holds zero bytes there. DESIGN CHOICE (log entry 6):
`MAX_PAYLOAD` is infinity. Nothing is pending and nothing has been answered. -/
def State.reset : State where
  S := splatBlock 0x00#8
  RK := Vector.replicate 11 (splatBlock 0x00#8)
  KEYV := false
  FAULTS := 0x00#8
  input := []
  responses := []
  pending := []
  maxPayload := .infinity
  freeCount := 0

end Sys2Proof.Machine
end

