-- ==== Sys2Proof/Machine/Flags.lean ====
section
/-! DEFINITION. The status and control registers: the numbers of the fault codes, the sticky mask FAULTS and the view
STATUS (spec/10_state.md R25, R26; spec/60_exceptions.md R190). The core has no arithmetic flags (spec/00_scope.md R7). -/

namespace Sys2Proof.Machine

/-- The number of a fault code (R190). -/
def codeNumber : FaultCode → Nat
  | .illegalCommand => 1
  | .overrun => 2
  | .lengthError => 3
  | .invalidKeyLength => 4
  | .indexError => 5
  | .noKey => 6
  | .decodeError => 7

/-- The status byte `ST` of a response that ends with a fault (R190). -/
def codeByte (f : FaultCode) : Byte := BitVec.ofNat 8 (codeNumber f)

/-- `ST = 0x00`, the status byte of success (R190). -/
def okByte : Byte := 0x00#8

/-- `1 << code`: the bit of `FAULTS` that records a code (R11). -/
def faultBit (f : FaultCode) : Byte := 1#8 <<< codeNumber f

/-- `FAULTS | (1 << code)`: the mask after a fault (R11, R25). -/
def recordFault (f : FaultCode) (mask : Byte) : Byte := mask ||| faultBit f

/-- `STATUS`: bit 0 is `KEYV`, bits 7 to 1 read as 0 (R26). -/
def statusView (s : State) : Byte := if s.KEYV then 0x01#8 else 0x00#8

/-- The value read from `FAULTS`, whose bit 0 is hardwired 0 (R26, log entry 8). -/
def faultsView (s : State) : Byte := s.FAULTS &&& 0xFE#8

end Sys2Proof.Machine
end

