-- ==== Sys2Proof/Machine/Block.lean ====
section
/-! DEFINITION. Access to Blocks and words by row and column, and the byte order between a sequence of 16 bytes and the
grid (spec/00_scope.md R9, R10; spec/20_memory.md R41, R42, R44). -/

namespace Sys2Proof.Machine

/-- Byte `i` of a word. -/
def wordGet (w : Word) : Fin 4 → Byte
  | 0 => w.t0
  | 1 => w.t1
  | 2 => w.t2
  | 3 => w.t3

/-- The word whose byte `i` is `f i`. -/
def wordOf (f : Fin 4 → Byte) : Word := ⟨f 0, f 1, f 2, f 3⟩

/-- Row `r` of a Block (R9). -/
def rowOf (B : Block) : Fin 4 → Word
  | 0 => B.r0
  | 1 => B.r1
  | 2 => B.r2
  | 3 => B.r3

/-- `B[r][c]` (R9). -/
def cell (B : Block) (r c : Fin 4) : Byte := wordGet (rowOf B r) c

/-- The Block whose cell `(r, c)` is `f r c` (R9). -/
def blockOf (f : Fin 4 → Fin 4 → Byte) : Block := ⟨wordOf (f 0), wordOf (f 1), wordOf (f 2), wordOf (f 3)⟩

/-- Column `c` of a Block, the byte of row `i` at place `i` (R9, R111). -/
def colOf (B : Block) (c : Fin 4) : Word := wordOf fun r => cell B r c

/-- The Block whose columns are the four words. -/
def ofColumns (w0 w1 w2 w3 : Word) : Block :=
  blockOf fun r c => wordGet (match c with | 0 => w0 | 1 => w1 | 2 => w2 | 3 => w3) r

/-- `B` after `B[r][c] <- v`; the other 15 cells keep their values (R10). -/
def setCell (B : Block) (r c : Fin 4) (v : Byte) : Block :=
  blockOf fun r' c' => if r' = r ∧ c' = c then v else cell B r' c'

/-- `fill(q)`, row-major, of a sequence of 16 bytes; no Block for any other length (R41). -/
def fill : Bytes → Option Block
  | [b0, b1, b2, b3, b4, b5, b6, b7, b8, b9, b10, b11, b12, b13, b14, b15] =>
    some ⟨⟨b0, b1, b2, b3⟩, ⟨b4, b5, b6, b7⟩, ⟨b8, b9, b10, b11⟩, ⟨b12, b13, b14, b15⟩⟩
  | _ => none

/-- The four bytes of a word, first byte first. -/
def wordBytes (w : Word) : Bytes := [w.t0, w.t1, w.t2, w.t3]

/-- `drain(B)`, row-major: `q[4*r + c] = B[r][c]` (R42). -/
def drain (B : Block) : Bytes := wordBytes B.r0 ++ wordBytes B.r1 ++ wordBytes B.r2 ++ wordBytes B.r3

/-- The Block with rows and columns exchanged. -/
def transpose (B : Block) : Block := blockOf fun r c => cell B c r

/-- `T(q)` of a sequence of 16 bytes: `T(q)[4*c + r] = q[4*r + c]` (R44). -/
def transposeBytes (q : Bytes) : Option Bytes := (fill q).map fun B => drain (transpose B)

/-- `colfirst(q)`: `B[r][c] = q[r + 4*c]` (R44). No command uses it; the known-answer vector is written with it (R135). -/
def colfirst (q : Bytes) : Option Block := (fill q).map transpose

/-- `colfirstdrain(B)`: `q[r + 4*c] = B[r][c]` (R44). -/
def colfirstDrain (B : Block) : Bytes := drain (transpose B)

end Sys2Proof.Machine
end

