-- ==== Sys2Proof/Machine/Operands.lean ====
section
/-! DEFINITION. The checks a command runs on its payload, its operands and the key flag, each one step of the fixed order
of spec/60_exceptions.md R198, and the operands they give. A check answers with the operand or with its fault code. -/

namespace Sys2Proof.Machine

/-- `n > MAX_PAYLOAD` (spec/00_scope.md R5). -/
def exceedsLimit : PayloadLimit → Nat → Bool
  | .infinity, _ => false
  | .atLeast16 room, n => decide (16 + room < n)

/-- Step 2 of R198: `len(IN) > MAX_PAYLOAD` raises Overrun (R192). -/
def checkOverrun (s : State) : Except FaultCode Unit :=
  if exceedsLimit s.maxPayload s.input.length then .error .overrun else .ok ()

/-- Step 3 of R198 for a command without payload: `len(IN) != 0` raises LengthError (R193). -/
def checkNoPayload (s : State) : Except FaultCode Unit :=
  if s.input.length ≠ 0 then .error .lengthError else .ok ()

/-- Step 3 of R198 for a command that takes a Block: `fill(IN)`, and the given code when `len(IN) != 16`
(LengthError, R193; InvalidKeyLength for SETKEY, R194). -/
def payloadBlock (wrongLength : FaultCode) (s : State) : Except FaultCode Block :=
  match fill s.input with
  | some B => .ok B
  | none => .error wrongLength

/-- Step 4 of R198 for GET and SET: the row and the column, IndexError when one is above 3 (R195). -/
def cellIndex (a b : Byte) : Except FaultCode (Fin 4 × Fin 4) :=
  if h : a.toNat < 4 ∧ b.toNat < 4 then .ok (⟨a.toNat, h.1⟩, ⟨b.toNat, h.2⟩) else .error .indexError

/-- Step 4 of R198 for ADDRK and GETRK: the round-key number, IndexError when it is above 10 (R195). -/
def roundKeyIndex (a : Byte) : Except FaultCode (Fin 11) :=
  if h : a.toNat < 11 then .ok ⟨a.toNat, h⟩ else .error .indexError

/-- Step 5 of R198: `KEYV = 0` raises NoKey (R196); else the key schedule. -/
def keySchedule (s : State) : Except FaultCode (Vector Block 11) :=
  if s.KEYV then .ok s.RK else .error .noKey

end Sys2Proof.Machine
end

