-- ==== Sys2Proof/Machine/Ops.lean ====
section
/-! DEFINITION. The named operations over the state: register writes, the end of a command with an answer or with a fault
(the core's exception), the host's two actions, and the free values (spec/00_scope.md R10, R11; spec/10_state.md R31;
spec/60_exceptions.md R199, R200; spec/70_reset_and_hazards.md R220, R232). There is no return from a fault, because a
fault saves nothing (R200). -/

namespace Sys2Proof.Machine

/-- `S <- B` (R10). -/
def writeS (B : Block) (s : State) : State := { s with S := B }

/-- SETKEY's two writes: `RK[0..10]` together, and `KEYV <- 1` (spec/42_key_schedule.md R113). -/
def writeKey (rk : Vector Block 11) (s : State) : State := { s with RK := rk, KEYV := true }

/-- Free byte number `n + 4*r + c` in every cell. -/
def freeBlock (n : Nat) : Block := blockOf fun r c => Config.freeByte (n + 4 * r.val + c.val)

/-- Eleven free Blocks, from free byte number `n` on. -/
def freeSchedule (n : Nat) : Vector Block 11 := Vector.ofFn fun k : Fin 11 => freeBlock (n + 16 * k.val)

/-- CLRKEY's end of the Cipher: `KEYV <- 0`, after which the content of `RK` is unspecified, so `RK` takes free values
(spec/42_key_schedule.md R115, log entry 3). With no Cipher there is nothing to end and nothing changes (R115). -/
def endCipher (s : State) : State :=
  if s.KEYV then { s with KEYV := false, RK := freeSchedule s.freeCount, freeCount := s.freeCount + 176 } else s

/-- The end of a command with success: `ST = 0x00` and `OUT` (R11); `IN` is gone (R30). -/
def respond (out : Bytes) (s : State) : State :=
  { s with input := [], responses := s.responses ++ [⟨okByte, out⟩] }

/-- Taking a fault: `ST` is the code, `OUT = []`, `FAULTS <- FAULTS | (1 << code)`, and nothing else changes (R11,
R199); `IN` is gone (R30). -/
def raise (f : FaultCode) (s : State) : State :=
  { s with FAULTS := recordFault f s.FAULTS, input := [], responses := s.responses ++ [⟨codeByte f, []⟩] }

/-- The end of a command: its checks and effect gave a new state and an output payload, or the code of the first check
that failed, and then the state is the one the command began in (R11). -/
def finish (s : State) (r : Except FaultCode (State × Bytes)) : Host.Outcome State Fault Refusal :=
  match r with
  | .ok (t, out) => .next (respond out t)
  | .error f => .next (raise f s)

/-- The host issues a command: its payload is `IN`, and the host's list goes on with `rest` (R21, R28). -/
def issue (payload : Bytes) (rest : List HostAction) (s : State) : State :=
  { s with input := payload, pending := rest }

/-- The host's reset (R220): `KEYV <- 0`, `FAULTS <- 0x00`, every cell of `S` and `RK` unspecified, so a free value
(log entry 2). It returns no response; the host's list goes on with `rest`. -/
def takeReset (rest : List HostAction) (s : State) : State :=
  { s with
    S := freeBlock s.freeCount
    RK := freeSchedule (s.freeCount + 16)
    KEYV := false
    FAULTS := 0x00#8
    input := []
    pending := rest
    freeCount := s.freeCount + 192 }

/-- Between host actions the core holds its state (R204, R232, log entry 7). -/
def hold (s : State) : State := s

end Sys2Proof.Machine
end

