-- ==== Sys2Proof/Machine/Base64Commands.lean ====
section
/-! DEFINITION. Family 6, Base64 Codec: B64ENC, B64DEC (spec/46_base64.md R166, R167). -/

namespace Sys2Proof.Machine

/-- B64ENC (R166). -/
def execB64enc (s : State) : Host.Outcome State Fault Refusal :=
  finish s do
    checkOverrun s
    return (s, b64encode s.input)

/-- B64DEC (R167). -/
def execB64dec (s : State) : Host.Outcome State Fault Refusal :=
  finish s do
    checkOverrun s
    return (s, b64decode s.input)

end Sys2Proof.Machine
end

