-- ==== Sys2Proof/Machine/Gf.lean ====
section
/-! DEFINITION. Arithmetic in GF(2^8), reduction by 0x1B (spec/43_gf_arithmetic.md R120, R121). -/

namespace Sys2Proof.Machine

/-- `xtime(v)`: the shift by one keeping 8 bits, XOR 0x1B when bit 7 of the input was set (R120). -/
def xtime (v : Byte) : Byte :=
  let r := v <<< 1
  if v.getLsbD 7 then r ^^^ 0x1B#8 else r

/-- `n` iterations of the multiplication loop with accumulator `p` (R121). -/
def gmulLoop : Nat → Byte → Byte → Byte → Byte
  | 0, p, _, _ => p
  | n + 1, p, a, b => gmulLoop n (if b.getLsbD 0 then p ^^^ a else p) (xtime a) (b >>> 1)

/-- `gmul(a, b)`: always 8 iterations from accumulator 0 (R121). -/
def gmul (a b : Byte) : Byte := gmulLoop 8 0x00#8 a b

end Sys2Proof.Machine
end

