-- ==== Sys2Proof/Machine/Transforms.lean ====
section
/-! DEFINITION. The pure round transforms on Blocks (spec/41_round_transforms.md R92 to R97, R106). -/

namespace Sys2Proof.Machine

/-- `SubBytes(B)`: every cell through SBOX (R92). -/
def subBytes (B : Block) : Block := blockOf fun r c => sbox (cell B r c)

/-- `InvSubBytes(B)`: every cell through INVSBOX (R93). -/
def invSubBytes (B : Block) : Block := blockOf fun r c => invSbox (cell B r c)

/-- `ShiftRows(B)[r][c] = B[r][(c + r) mod 4]`; the sum in `Fin 4` is the sum mod 4 (R94). -/
def shiftRows (B : Block) : Block := blockOf fun r c => cell B r (c + r)

/-- `InvShiftRows(B)[r][c] = B[r][(c - r) mod 4]`; the difference in `Fin 4` is the one mod 4 (R95). -/
def invShiftRows (B : Block) : Block := blockOf fun r c => cell B r (c - r)

/-- `{02}·v` (R96). -/
def m2 (v : Byte) : Byte := xtime v

/-- `{03}·v = {02}·v ^ v` (R96). -/
def m3 (v : Byte) : Byte := xtime v ^^^ v

/-- One column of MixColumns (R96). -/
def mixColumn (s : Word) : Word where
  t0 := m2 s.t0 ^^^ m3 s.t1 ^^^ s.t2 ^^^ s.t3
  t1 := s.t0 ^^^ m2 s.t1 ^^^ m3 s.t2 ^^^ s.t3
  t2 := s.t0 ^^^ s.t1 ^^^ m2 s.t2 ^^^ m3 s.t3
  t3 := m3 s.t0 ^^^ s.t1 ^^^ s.t2 ^^^ m2 s.t3

/-- One column of InvMixColumns (R97). -/
def invMixColumn (s : Word) : Word where
  t0 := gmul s.t0 14 ^^^ gmul s.t1 11 ^^^ gmul s.t2 13 ^^^ gmul s.t3 9
  t1 := gmul s.t0 9 ^^^ gmul s.t1 14 ^^^ gmul s.t2 11 ^^^ gmul s.t3 13
  t2 := gmul s.t0 13 ^^^ gmul s.t1 9 ^^^ gmul s.t2 14 ^^^ gmul s.t3 11
  t3 := gmul s.t0 11 ^^^ gmul s.t1 13 ^^^ gmul s.t2 9 ^^^ gmul s.t3 14

/-- `MixColumns(B)`: each of the four columns on its own (R96). -/
def mixColumns (B : Block) : Block :=
  ofColumns (mixColumn (colOf B 0)) (mixColumn (colOf B 1)) (mixColumn (colOf B 2)) (mixColumn (colOf B 3))

/-- `InvMixColumns(B)`: each of the four columns on its own (R97). -/
def invMixColumns (B : Block) : Block :=
  ofColumns (invMixColumn (colOf B 0)) (invMixColumn (colOf B 1)) (invMixColumn (colOf B 2)) (invMixColumn (colOf B 3))

/-- `AddRoundKey(B, K)`: the byte-wise XOR (R106). -/
def addRoundKey (B K : Block) : Block := blockOf fun r c => cell B r c ^^^ cell K r c

end Sys2Proof.Machine
end

