-- ==== Sys2Proof/Machine/Schedule.lean ====
section
/-! DEFINITION. The key expansion (spec/42_key_schedule.md R110, R111, R112). -/

namespace Sys2Proof.Machine

/-- `rconAfter n` is `Rcon[n + 1]`: `Rcon[1] = 0x01` and each next one is the `xtime` of the one before (R110). `Rcon[0]`
has no value here, as no rule gives it one. -/
def rconAfter : Nat → Byte
  | 0 => 0x01#8
  | n + 1 => xtime (rconAfter n)

/-- `RotWord((t0, t1, t2, t3)) = (t1, t2, t3, t0)` (R111). -/
def rotWord (t : Word) : Word := ⟨t.t1, t.t2, t.t3, t.t0⟩

/-- `SubWord`: SBOX on each of the four bytes (R111). -/
def subWord (t : Word) : Word := ⟨sbox t.t0, sbox t.t1, sbox t.t2, sbox t.t3⟩

/-- The byte-wise XOR of two words. -/
def xorWord (u v : Word) : Word := ⟨u.t0 ^^^ v.t0, u.t1 ^^^ v.t1, u.t2 ^^^ v.t2, u.t3 ^^^ v.t3⟩

/-- The round key after `P`, with round constant `rc` (R112 steps 1 to 5): the transformed last column goes into
column 0, and each next column is the XOR of `P`'s column with the new column before it. -/
def nextRoundKey (rc : Byte) (P : Block) : Block :=
  let t := subWord (rotWord (colOf P 3))
  let t := { t with t0 := t.t0 ^^^ rc }
  let c0 := xorWord (colOf P 0) t
  let c1 := xorWord (colOf P 1) c0
  let c2 := xorWord (colOf P 2) c1
  let c3 := xorWord (colOf P 3) c2
  ofColumns c0 c1 c2 c3

/-- Round key `r` of the key `K`: `RK[0] = K`, and `RK[r]` from `RK[r-1]` with `Rcon[r]` (R112). -/
def roundKey (K : Block) : Nat → Block
  | 0 => K
  | r + 1 => nextRoundKey (rconAfter r) (roundKey K r)

/-- `ExpandKey(K)`: the eleven round keys `RK[0..10]` (R112). -/
def expandKey (K : Block) : Vector Block 11 := Vector.ofFn fun k : Fin 11 => roundKey K k.val

end Sys2Proof.Machine
end

