-- ==== Sys2Proof/Machine/Cipher.lean ====
section
/-! DEFINITION. Single-block encryption and decryption (spec/44_cipher_block.md R130, R131). -/

namespace Sys2Proof.Machine

/-- A round of encryption other than the last: SubBytes, ShiftRows, MixColumns, AddRoundKey (R130). -/
def encryptRound (K X : Block) : Block := addRoundKey (mixColumns (shiftRows (subBytes X))) K

/-- Round 10 of encryption, which has no MixColumns (R130). -/
def encryptLastRound (K X : Block) : Block := addRoundKey (shiftRows (subBytes X)) K

/-- `encryptBlock(B, RK)` (R130). -/
def encryptBlock (B : Block) (RK : Vector Block 11) : Block :=
  let X := addRoundKey B RK[0]
  let X := encryptRound RK[1] X
  let X := encryptRound RK[2] X
  let X := encryptRound RK[3] X
  let X := encryptRound RK[4] X
  let X := encryptRound RK[5] X
  let X := encryptRound RK[6] X
  let X := encryptRound RK[7] X
  let X := encryptRound RK[8] X
  let X := encryptRound RK[9] X
  encryptLastRound RK[10] X

/-- A round of decryption other than the first: AddRoundKey, InvMixColumns, InvShiftRows, InvSubBytes (R131). -/
def decryptRound (K X : Block) : Block := invSubBytes (invShiftRows (invMixColumns (addRoundKey X K)))

/-- The first step of decryption, round 10, which has no InvMixColumns (R131). -/
def decryptFirstRound (K X : Block) : Block := invSubBytes (invShiftRows (addRoundKey X K))

/-- `decryptBlock(B, RK)` (R131). -/
def decryptBlock (B : Block) (RK : Vector Block 11) : Block :=
  let X := decryptFirstRound RK[10] B
  let X := decryptRound RK[9] X
  let X := decryptRound RK[8] X
  let X := decryptRound RK[7] X
  let X := decryptRound RK[6] X
  let X := decryptRound RK[5] X
  let X := decryptRound RK[4] X
  let X := decryptRound RK[3] X
  let X := decryptRound RK[2] X
  let X := decryptRound RK[1] X
  addRoundKey X RK[0]

end Sys2Proof.Machine
end

