-- ==== Sys2Proof/Machine/CipherCommands.lean ====
section
/-! DEFINITION. Family 4, Cipher single block: ENCBLK, DECBLK (spec/44_cipher_block.md R132, R133). -/

namespace Sys2Proof.Machine

/-- ENCBLK (R132). -/
def execEncblk (s : State) : Host.Outcome State Fault Refusal :=
  finish s do
    checkOverrun s
    checkNoPayload s
    let rk ← keySchedule s
    return (writeS (encryptBlock s.S rk) s, [])

/-- DECBLK (R133). -/
def execDecblk (s : State) : Host.Outcome State Fault Refusal :=
  finish s do
    checkOverrun s
    checkNoPayload s
    let rk ← keySchedule s
    return (writeS (decryptBlock s.S rk) s, [])

end Sys2Proof.Machine
end

