-- ==== Sys2Proof/Machine/GfCommands.lean ====
section
/-! DEFINITION. Family 3, Galois Field Arithmetic: GMUL, XTIME (spec/43_gf_arithmetic.md R122, R123). -/

namespace Sys2Proof.Machine

/-- GMUL (R122). -/
def execGmul (a b : Byte) (s : State) : Host.Outcome State Fault Refusal :=
  finish s do
    checkOverrun s
    checkNoPayload s
    return (s, [gmul a b])

/-- XTIME (R123). -/
def execXtime (a : Byte) (s : State) : Host.Outcome State Fault Refusal :=
  finish s do
    checkOverrun s
    checkNoPayload s
    return (s, [xtime a])

end Sys2Proof.Machine
end

