-- ==== Sys2Proof/Machine/KeyCommands.lean ====
section
/-! DEFINITION. Family 2, Key Schedule: SETKEY, GETRK, CLRKEY (spec/42_key_schedule.md R113 to R115). -/

namespace Sys2Proof.Machine

/-- SETKEY (R113). -/
def execSetkey (s : State) : Host.Outcome State Fault Refusal :=
  finish s do
    checkOverrun s
    let K ← payloadBlock .invalidKeyLength s
    return (writeKey (expandKey K) s, [])

/-- GETRK (R114). -/
def execGetrk (a : Byte) (s : State) : Host.Outcome State Fault Refusal :=
  finish s do
    checkOverrun s
    checkNoPayload s
    let k ← roundKeyIndex a
    let rk ← keySchedule s
    return (s, drain rk[k])

/-- CLRKEY (R115). -/
def execClrkey (s : State) : Host.Outcome State Fault Refusal :=
  finish s do
    checkOverrun s
    checkNoPayload s
    return (endCipher s, [])

end Sys2Proof.Machine
end

