-- ==== Sys2Proof/Machine/Message.lean ====
section
/-! DEFINITION. Message mode: zero padding, chunking, ECB and the base64 text around it (spec/45_message_mode.md R140 to
R145). -/

namespace Sys2Proof.Machine

/-- `pad(p)`: trailing zero bytes up to the next multiple of 16, none when the length is one already (R140). -/
def pad (p : Bytes) : Bytes := p ++ List.replicate ((16 - p.length % 16) % 16) 0x00#8

/-- `m` consecutive 16-byte blocks of a sequence, each filled row-major (R141). -/
def chunkLoop : Nat → Bytes → List Block
  | 0, _ => []
  | m + 1, q => (fill (q.take 16)).toList ++ chunkLoop m (q.drop 16)

/-- `chunk(q)`: the `len(q) div 16` Blocks of a sequence whose length is a multiple of 16 (R141). -/
def chunk (q : Bytes) : List Block := chunkLoop (q.length / 16) q

/-- `unchunk`: the drained Blocks one after the other (R141). -/
def unchunk : List Block → Bytes
  | [] => []
  | B :: Bs => drain B ++ unchunk Bs

/-- `ecbEncryptBytes(p, RK)`: every block of the padded message on its own with the same key schedule (R142). -/
def ecbEncryptBytes (p : Bytes) (RK : Vector Block 11) : Bytes :=
  unchunk ((chunk (pad p)).map fun B => encryptBlock B RK)

/-- `ecbDecryptBytes(c, RK)`, for a length that is a multiple of 16; no byte is stripped (R143). -/
def ecbDecryptBytes (c : Bytes) (RK : Vector Block 11) : Bytes :=
  unchunk ((chunk c).map fun C => decryptBlock C RK)

/-- `encrypt(p, RK)`: the base64 text of the ciphertext bytes (R144). -/
def encryptText (p : Bytes) (RK : Vector Block 11) : Bytes := b64encode (ecbEncryptBytes p RK)

/-- `decrypt(t, RK)`: none is the failure `malformed`, a decoded length that is not a multiple of 16 (R145). -/
def decryptText (t : Bytes) (RK : Vector Block 11) : Option Bytes :=
  let c := b64decode t
  if c.length % 16 ≠ 0 then none else some (ecbDecryptBytes c RK)

end Sys2Proof.Machine
end

