-- ==== Sys2Proof/Machine/MessageCommands.lean ====
section
/-! DEFINITION. Family 5, Cipher message mode: ENCRYPT, DECRYPT (spec/45_message_mode.md R146, R147). Neither reads or
writes `S` (spec/10_state.md R29). -/

namespace Sys2Proof.Machine

/-- ENCRYPT (R146). -/
def execEncrypt (s : State) : Host.Outcome State Fault Refusal :=
  finish s do
    checkOverrun s
    let rk ← keySchedule s
    return (s, encryptText s.input rk)

/-- Step 6 of R198: `decrypt(IN, RK)`, DecodeError when the text is malformed (R145, R147, R197). -/
def decryptedPayload (rk : Vector Block 11) (s : State) : Except FaultCode Bytes :=
  match decryptText s.input rk with
  | some p => .ok p
  | none => .error .decodeError

/-- DECRYPT (R147). -/
def execDecrypt (s : State) : Host.Outcome State Fault Refusal :=
  finish s do
    checkOverrun s
    let rk ← keySchedule s
    let p ← decryptedPayload rk s
    return (s, p)

end Sys2Proof.Machine
end

