-- ==== Sys2Proof/Machine/RoundTransform.lean ====
section
/-! DEFINITION. Family 1, Round Transform Engine: the six transforms of `S`, ADDRK and ADDRKI
(spec/41_round_transforms.md R98 to R105). -/

namespace Sys2Proof.Machine

/-- A command that replaces `S` by a function of `S` and needs no payload and no key (R98 to R103). -/
def transformS (f : Block → Block) (s : State) : Host.Outcome State Fault Refusal :=
  finish s do
    checkOverrun s
    checkNoPayload s
    return (writeS (f s.S) s, [])

/-- SUBBYTES (R98). -/
def execSubbytes (s : State) : Host.Outcome State Fault Refusal := transformS subBytes s

/-- INVSUBBYTES (R99). -/
def execInvsubbytes (s : State) : Host.Outcome State Fault Refusal := transformS invSubBytes s

/-- SHIFTROWS (R100). -/
def execShiftrows (s : State) : Host.Outcome State Fault Refusal := transformS shiftRows s

/-- INVSHIFTROWS (R101). -/
def execInvshiftrows (s : State) : Host.Outcome State Fault Refusal := transformS invShiftRows s

/-- MIXCOLUMNS (R102). -/
def execMixcolumns (s : State) : Host.Outcome State Fault Refusal := transformS mixColumns s

/-- INVMIXCOLUMNS (R103). -/
def execInvmixcolumns (s : State) : Host.Outcome State Fault Refusal := transformS invMixColumns s

/-- ADDRK (R104). -/
def execAddrk (a : Byte) (s : State) : Host.Outcome State Fault Refusal :=
  finish s do
    checkOverrun s
    checkNoPayload s
    let k ← roundKeyIndex a
    let rk ← keySchedule s
    return (writeS (addRoundKey s.S rk[k]) s, [])

/-- ADDRKI (R105). -/
def execAddrki (s : State) : Host.Outcome State Fault Refusal :=
  finish s do
    checkOverrun s
    let K ← payloadBlock .lengthError s
    return (writeS (addRoundKey s.S K) s, [])

end Sys2Proof.Machine
end

