-- ==== Sys2Proof/Machine/StateBlock.lean ====
section
/-! DEFINITION. Family 0, State Block access: GET, SET, LDBLK, STBLK (spec/40_state_block.md R80 to R83). -/

namespace Sys2Proof.Machine

/-- GET (R80). -/
def execGet (a b : Byte) (s : State) : Host.Outcome State Fault Refusal :=
  finish s do
    checkOverrun s
    checkNoPayload s
    let (r, c) ← cellIndex a b
    return (s, [cell s.S r c])

/-- SET (R81). -/
def execSet (a b c : Byte) (s : State) : Host.Outcome State Fault Refusal :=
  finish s do
    checkOverrun s
    checkNoPayload s
    let (row, col) ← cellIndex a b
    return (writeS (setCell s.S row col c) s, [])

/-- LDBLK (R82). -/
def execLdblk (s : State) : Host.Outcome State Fault Refusal :=
  finish s do
    checkOverrun s
    let B ← payloadBlock .lengthError s
    return (writeS B s, [])

/-- STBLK (R83). -/
def execStblk (s : State) : Host.Outcome State Fault Refusal :=
  finish s do
    checkOverrun s
    checkNoPayload s
    return (s, drain s.S)

end Sys2Proof.Machine
end

