-- ==== Sys2Proof/Machine/StatusCommands.lean ====
section
/-! DEFINITION. Family 7, status: RDSTAT (spec/47_status.md R180). -/

namespace Sys2Proof.Machine

/-- RDSTAT (R180). -/
def execRdstat (s : State) : Host.Outcome State Fault Refusal :=
  finish s do
    checkOverrun s
    checkNoPayload s
    return (s, [statusView s, faultsView s])

end Sys2Proof.Machine
end

