-- ==== Sys2Proof/Machine/Dispatch.lean ====
section
/-! DEFINITION. The dispatch of a decoded command to its meaning, one arm per row of the opcode map
(spec/30_encoding.md R63). -/

namespace Sys2Proof.Machine

/-- The effect of one command on the machine, whose `input` is the command's payload (spec/00_scope.md R11). -/
def exec (i : Instr) (s : State) : Host.Outcome State Fault Refusal :=
  match i with
  | .get a b => Sys2Proof.Machine.execGet a b s
  | .set a b c => Sys2Proof.Machine.execSet a b c s
  | .ldblk => Sys2Proof.Machine.execLdblk s
  | .stblk => Sys2Proof.Machine.execStblk s
  | .subbytes => Sys2Proof.Machine.execSubbytes s
  | .invsubbytes => Sys2Proof.Machine.execInvsubbytes s
  | .shiftrows => Sys2Proof.Machine.execShiftrows s
  | .invshiftrows => Sys2Proof.Machine.execInvshiftrows s
  | .mixcolumns => Sys2Proof.Machine.execMixcolumns s
  | .invmixcolumns => Sys2Proof.Machine.execInvmixcolumns s
  | .addrk a => Sys2Proof.Machine.execAddrk a s
  | .addrki => Sys2Proof.Machine.execAddrki s
  | .setkey => Sys2Proof.Machine.execSetkey s
  | .getrk a => Sys2Proof.Machine.execGetrk a s
  | .clrkey => Sys2Proof.Machine.execClrkey s
  | .gmul a b => Sys2Proof.Machine.execGmul a b s
  | .xtime a => Sys2Proof.Machine.execXtime a s
  | .encblk => Sys2Proof.Machine.execEncblk s
  | .decblk => Sys2Proof.Machine.execDecblk s
  | .encrypt => Sys2Proof.Machine.execEncrypt s
  | .decrypt => Sys2Proof.Machine.execDecrypt s
  | .b64enc => Sys2Proof.Machine.execB64enc s
  | .b64dec => Sys2Proof.Machine.execB64dec s
  | .rdstat => Sys2Proof.Machine.execRdstat s

end Sys2Proof.Machine
end

