-- ==== Sys2Proof/Machine/Step.lean ====
section
/-! DEFINITION. One step of the machine: the host's next action (spec/10_state.md R20, R21, R28;
spec/70_reset_and_hazards.md R231, R232). -/

namespace Sys2Proof.Machine

/-- One host action. A command is issued, decoded (R65) and run; an illegal word raises IllegalCommand whatever its
payload (R191). A reset is R220. With nothing pending the core holds its state (R204). -/
def step (s : State) : Host.Outcome State Fault Refusal :=
  match s.pending with
  | [] => .next (hold s)
  | .reset :: rest => .next (takeReset rest s)
  | .command cw payload :: rest =>
    match decode cw with
    | .ok i => exec i (issue payload rest s)
    | .error _ => .next (raise .illegalCommand (issue payload rest s))

/-- `s` with the host's next action the command whose word has the bits `w`, with an empty payload, ahead of what is
pending (log entry 5). -/
def State.withFetchWord (s : State) (nbits w : Nat) : State :=
  { s with pending := .command (tableWord nbits w) [] :: s.pending }

end Sys2Proof.Machine
end

