-- ==== Sys2Proof/WellFormed.lean ====
section
/-! DEFINITION. What the spec asks of a command's operands beyond their width (spec/60_exceptions.md R195,
spec/20_memory.md R49). A command that is not well formed is still a command: it decodes (R62) and raises IndexError
when it runs, so no meaning and no statement takes this check as a premise unless it says so. -/

namespace Sys2Proof

/-- The operands lie in the ranges of the opcode map: row and column at most 3 (GET, SET), round-key number at most 10
(ADDRK, GETRK); every other operand is any byte (R195). -/
def Instr.wellFormed : Instr → Bool
  | .get a b => decide (a.toNat ≤ 3) && decide (b.toNat ≤ 3)
  | .set a b _ => decide (a.toNat ≤ 3) && decide (b.toNat ≤ 3)
  | .addrk a => decide (a.toNat ≤ 10)
  | .getrk a => decide (a.toNat ≤ 10)
  | .ldblk | .stblk | .subbytes | .invsubbytes | .shiftrows | .invshiftrows | .mixcolumns | .invmixcolumns
  | .addrki | .setkey | .clrkey | .gmul _ _ | .xtime _ | .encblk | .decblk | .encrypt | .decrypt
  | .b64enc | .b64dec | .rdstat => true

end Sys2Proof
end

