-- ==== Sys2Proof/Safety.lean ====
section
/-! DEFINITION. The terms the claims are stated in: what the spec says a command leaves when it completes and when it
faults, which fault it reports, what a reset state is, and the invariants. They are
written from the spec's rules beside the model's own operations, so that a claim compares two texts. -/

namespace Sys2Proof.Safety

open Sys2Proof Sys2Proof.Machine

/-- `s` after a command that completes with output `out` and no state write: `ST = 0x00`, `OUT = out`, the payload gone
(spec/00_scope.md R11, spec/10_state.md R30). -/
def completed (s : State) (out : Bytes) : State :=
  { s with input := [], responses := s.responses ++ [⟨0x00#8, out⟩] }

/-- `s` after a command that faults with code `n`: `ST = n`, `OUT = []`, bit `n` of `FAULTS` set, nothing else changed
(R11, spec/60_exceptions.md R199). -/
def faulted (s : State) (n : Nat) : State :=
  { s with FAULTS := s.FAULTS ||| BitVec.ofNat 8 (2 ^ n), input := [], responses := s.responses ++ [⟨BitVec.ofNat 8 n, []⟩] }

/-- `len(IN) > MAX_PAYLOAD` (R192). -/
def Overruns (s : State) : Prop := ∃ room, s.maxPayload = .atLeast16 room ∧ 16 + room < s.input.length

/-- Steps 2 and 3 of R198 for a command that needs a payload of exactly `need` bytes and reports another length with
`code`: Overrun first, then `code`, each with no other effect. -/
def ChecksPayload (i : Instr) (need code : Nat) (s : State) : Prop :=
  (Overruns s → exec i s = .next (faulted s 2)) ∧
  (¬ Overruns s → s.input.length ≠ need → exec i s = .next (faulted s code))

/-- Exactly the word `w` decodes to the command `i`: its operands are in their fields and every unused field is zero
(spec/30_encoding.md R60 to R65). -/
def OneWord (i : Instr) (w : CommandWord) : Prop := ∀ cw, decode cw = .ok i ↔ cw = w

/-- The payload length a command requires; none for the commands that accept any (spec/30_encoding.md R63). -/
def requiredLength : Instr → Option Nat
  | .ldblk | .addrki | .setkey => some 16
  | .encrypt | .decrypt | .b64enc | .b64dec => none
  | .get _ _ | .set _ _ _ | .stblk | .subbytes | .invsubbytes | .shiftrows | .invshiftrows | .mixcolumns
  | .invmixcolumns | .addrk _ | .getrk _ | .clrkey | .gmul _ _ | .xtime _ | .encblk | .decblk | .rdstat => some 0

/-- The commands that need the key schedule (R196). -/
def needsKey : Instr → Bool
  | .addrk _ | .getrk _ | .encblk | .decblk | .encrypt | .decrypt => true
  | .get _ _ | .set _ _ _ | .ldblk | .stblk | .subbytes | .invsubbytes | .shiftrows | .invshiftrows | .mixcolumns
  | .invmixcolumns | .addrki | .setkey | .clrkey | .gmul _ _ | .xtime _ | .b64enc | .b64dec | .rdstat => false

/-- Whether fault code `n` applies to a decoded command in a state, each cause on its own (R192 to R197). -/
def FaultApplies (i : Instr) (s : State) (n : Nat) : Prop :=
  (n = 2 ∧ Overruns s) ∨
  (n = 3 ∧ i ≠ .setkey ∧ ∃ k, requiredLength i = some k ∧ s.input.length ≠ k) ∨
  (n = 4 ∧ i = .setkey ∧ s.input.length ≠ 16) ∨
  (n = 5 ∧ i.wellFormed = false) ∨
  (n = 6 ∧ needsKey i = true ∧ s.KEYV = false) ∨
  (n = 7 ∧ i = .decrypt ∧ (b64decode s.input).length % 16 ≠ 0)

/-- `n` is the fault a command reports: of all that apply, the one with the smallest code (R198). -/
def Reports (i : Instr) (s : State) (n : Nat) : Prop :=
  FaultApplies i s n ∧ ∀ m, FaultApplies i s m → n ≤ m

/-- A reset state: `KEYV = 0` and `FAULTS = 0x00`, with any bytes in `S` and `RK` (spec/10_state.md R31). -/
def IsReset (s : State) : Prop := s.KEYV = false ∧ s.FAULTS = 0x00#8

/-- The invariant of the key schedule: while `KEYV = 1`, `RK` is the expansion of some key Block (spec/10_state.md R32). -/
def KeyInvariant (s : State) : Prop := s.KEYV = true → ∃ K : Block, s.RK = expandKey K

/-- The reserved bit of `FAULTS` is 0 (R25, R26). -/
def FaultsReserved (s : State) : Prop := s.FAULTS.getLsbD 0 = false

/-- Commands run one after the other, each with an empty payload, in a state where the one before left it. -/
def execAll : List Instr → State → Host.Outcome State Fault Refusal
  | [], s => .next s
  | i :: is, s =>
    match exec i s with
    | .next t => execAll is t
    | .fault f => .fault f
    | .refused r => .refused r

/-- The commands that write `S` (spec/10_state.md R33). -/
def writesS : Instr → Bool
  | .set _ _ _ | .ldblk | .subbytes | .invsubbytes | .shiftrows | .invshiftrows | .mixcolumns | .invmixcolumns
  | .addrk _ | .addrki | .encblk | .decblk => true
  | .get _ _ | .stblk | .setkey | .getrk _ | .clrkey | .gmul _ _ | .xtime _ | .encrypt | .decrypt | .b64enc | .b64dec
  | .rdstat => false

/-- The commands that neither read nor write `S` (spec/10_state.md R33). -/
def ignoresS : Instr → Bool
  | .setkey | .getrk _ | .clrkey | .gmul _ _ | .xtime _ | .encrypt | .decrypt | .b64enc | .b64dec | .rdstat => true
  | .get _ _ | .set _ _ _ | .ldblk | .stblk | .subbytes | .invsubbytes | .shiftrows | .invshiftrows | .mixcolumns
  | .invmixcolumns | .addrk _ | .addrki | .encblk | .decblk => false

/-- ENCBLK as a sequence of transforms (spec/44_cipher_block.md R132). -/
def encryptSequence : List Instr :=
  [.addrk 0#8] ++
  [1#8, 2#8, 3#8, 4#8, 5#8, 6#8, 7#8, 8#8, 9#8].flatMap (fun k => [.subbytes, .shiftrows, .mixcolumns, .addrk k]) ++
  [.subbytes, .shiftrows, .addrk 10#8]

/-- DECBLK as a sequence of transforms (spec/44_cipher_block.md R133). -/
def decryptSequence : List Instr :=
  [.addrk 10#8, .invshiftrows, .invsubbytes] ++
  [9#8, 8#8, 7#8, 6#8, 5#8, 4#8, 3#8, 2#8, 1#8].flatMap
    (fun k => [.addrk k, .invmixcolumns, .invshiftrows, .invsubbytes]) ++
  [.addrk 0#8]

/-- The coefficient of `x^i` in the polynomial of MixColumns, `{03}x³+{01}x²+{01}x+{02}` (spec/41_round_transforms.md R96). -/
def mixCoefficient : Fin 4 → Byte
  | 0 => 0x02#8
  | 1 => 0x01#8
  | 2 => 0x01#8
  | 3 => 0x03#8

/-- The coefficient of `x^i` in the polynomial of InvMixColumns, `{0B}x³+{0D}x²+{09}x+{0E}` (R97). -/
def invMixCoefficient : Fin 4 → Byte
  | 0 => 0x0E#8
  | 1 => 0x09#8
  | 2 => 0x0D#8
  | 3 => 0x0B#8

/-- The XOR over `j` of `coef (i - j) · s_j`: the coefficient of `x^i` in the product with the column `s` modulo `x⁴+1`
(R96); the difference in `Fin 4` is the one mod 4. -/
def productCoefficient (coef : Fin 4 → Byte) (s : Word) (i : Fin 4) : Byte :=
  gmul (coef (i - 0)) s.t0 ^^^ gmul (coef (i - 1)) s.t1 ^^^ gmul (coef (i - 2)) s.t2 ^^^ gmul (coef (i - 3)) s.t3

/-- Block `j` of a byte sequence, its bytes `16*j` to `16*j + 15` (spec/45_message_mode.md R141). -/
def blockAt (q : Bytes) (j : Nat) : Option Block := fill ((q.drop (16 * j)).take 16)

/-- The two states agree in everything but `RK`. -/
def SameButRK (s t : State) : Prop := ∃ rk, t = { s with RK := rk }

/-- The word matches the row of the opcode map: `(CW & mask) = op * 2^24` (spec/30_encoding.md R61). -/
def MatchesRow (cw : CommandWord) (row : Byte × CommandWord) : Prop := cw &&& row.2 = BitVec.ofNat 32 (row.1.toNat * 2 ^ 24)

/-- The rows of the opcode map as opcode and mask, in the map's order (spec/30_encoding.md R61, R63). -/
def opcodeTable : List (Byte × CommandWord) :=
  [(0x01#8, 0xFF0000FF#32), (0x02#8, 0xFF000000#32), (0x03#8, 0xFFFFFFFF#32), (0x04#8, 0xFFFFFFFF#32)] ++
  [(0x10#8, 0xFFFFFFFF#32), (0x11#8, 0xFFFFFFFF#32), (0x12#8, 0xFFFFFFFF#32), (0x13#8, 0xFFFFFFFF#32),
   (0x14#8, 0xFFFFFFFF#32), (0x15#8, 0xFFFFFFFF#32), (0x16#8, 0xFF00FFFF#32), (0x17#8, 0xFFFFFFFF#32)] ++
  [(0x20#8, 0xFFFFFFFF#32), (0x21#8, 0xFF00FFFF#32), (0x22#8, 0xFFFFFFFF#32)] ++
  [(0x30#8, 0xFF0000FF#32), (0x31#8, 0xFF00FFFF#32)] ++
  [(0x40#8, 0xFFFFFFFF#32), (0x41#8, 0xFFFFFFFF#32)] ++
  [(0x50#8, 0xFFFFFFFF#32), (0x51#8, 0xFFFFFFFF#32)] ++
  [(0x60#8, 0xFFFFFFFF#32), (0x61#8, 0xFFFFFFFF#32)] ++
  [(0x70#8, 0xFFFFFFFF#32)]

end Sys2Proof.Safety
end

