-- ==== Sys2Proof/Certificates/Slice0/Obligations.lean ====
section
/-! DEFINITION. The statements for the provers, each from the rules of the spec that its docstring names. Statements about
one command give the word that decodes to it, the faults of its checks in their order, and the exact next state it answers
with (completed, faulted: Sys2Proof/Safety.lean), which is its frame too: every field not named is unchanged. -/

open Sys2Proof Sys2Proof.Machine Sys2Proof.Safety

/-! ## Decoding and stepping -/

/-- Decoding the word of any command gives the command back, every operand at every value
(spec/30_encoding.md R60, R61, R63, R65). -/
def Obligations.DecodeOfEncode : Prop := ∀ i : Instr, decode (encode i) = .ok i

/-- A word that decodes is the word of the command it decodes to: no two words mean one command
(spec/30_encoding.md R61, R65). -/
def Obligations.EncodeOfDecode : Prop := ∀ (cw : CommandWord) (i : Instr), decode cw = .ok i → encode i = cw

/-- R61: a command word selects the command of a row exactly when `(CW & mask) = match`; no other word decodes. -/
def Obligations.WordSelectsRow : Prop :=
  ∀ cw : CommandWord,
    (∀ row ∈ opcodeTable, MatchesRow cw row ↔ ∃ i, decode cw = .ok i ∧ opcodeOf i = row.1) ∧
    ((∃ i, decode cw = .ok i) → ∃ row ∈ opcodeTable, MatchesRow cw row)

/-- Words of spec/95_test_vectors.md section 2, one per family and the illegal kinds. -/
def Obligations.SpecWordsDecode : Prop :=
  decode 0x01030300#32 = .ok (.get 3 3) ∧
  decode 0x020302A5#32 = .ok (.set 3 2 165) ∧
  decode 0x14000000#32 = .ok .mixcolumns ∧
  decode 0x160A0000#32 = .ok (.addrk 10) ∧
  decode 0x20000000#32 = .ok .setkey ∧
  decode 0x210A0000#32 = .ok (.getrk 10) ∧
  decode 0x30578300#32 = .ok (.gmul 87 131) ∧
  decode 0x41000000#32 = .ok .decblk ∧
  decode 0x50000000#32 = .ok .encrypt ∧
  decode 0x61000000#32 = .ok .b64dec ∧
  decode 0x70000000#32 = .ok .rdstat ∧
  decode 0x00000000#32 = .error (.unlistedOpcode 0x00) ∧
  decode 0xFFFFFFFF#32 = .error (.unlistedOpcode 0xFF) ∧
  decode 0x01000001#32 = .error (.unusedFieldNotZero 0x01) ∧
  decode 0x70FF0000#32 = .error (.unusedFieldNotZero 0x70)

/-- R191: a word that matches no row raises IllegalCommand, whatever its payload. -/
def Obligations.IllegalWordRaises : Prop :=
  ∀ (s : State) (cw : CommandWord) (p : Bytes) (rest : List HostAction),
    s.pending = .command cw p :: rest → (∀ row ∈ opcodeTable, ¬ MatchesRow cw row) →
      step s = .next (faulted { s with pending := rest } 1)

/-- A step at a pending command whose word decodes is exec of that command, with the payload as `IN` and the host's list
one action further (R11, R28, R65). -/
def Obligations.StepRunsDecodedCommand : Prop :=
  ∀ (s : State) (cw : CommandWord) (p : Bytes) (rest : List HostAction) (i : Instr),
    s.pending = .command cw p :: rest → decode cw = .ok i →
      step s = exec i { s with input := p, pending := rest }

/-- With nothing pending the core holds its state (spec/60_exceptions.md R204; spec/70_reset_and_hazards.md R232). -/
def Obligations.HoldsBetweenActions : Prop := ∀ s : State, s.pending = [] → step s = .next s

/-- R220: the reset action clears `KEYV` and `FAULTS`, leaves `S` and `RK` at some bytes, returns no response and leaves a
reset state. The values in `S` and `RK` are free values (log entry 2). -/
def Obligations.ResetActionClears : Prop :=
  ∀ (s : State) (rest : List HostAction), s.pending = .reset :: rest →
    ∃ (B : Block) (rk : Vector Block 11) (n : Nat),
      step s = .next { s with S := B, RK := rk, KEYV := false, FAULTS := 0x00#8, input := [], pending := rest, freeCount := n }

/-- R31, the rows the spec gives a value: after reset `KEYV = 0`, `FAULTS = 0x00`, `STATUS = 0x00`, and an RDSTAT returns
`OK <0000>` from any reset state with an empty payload (spec/47_status.md R180). -/
def Obligations.ResetStateValues : Prop :=
  State.reset.KEYV = false ∧ State.reset.FAULTS = 0x00#8 ∧ statusView State.reset = 0x00#8 ∧
  ∀ s : State, IsReset s → s.input = [] → exec .rdstat s = .next (completed s [0x00#8, 0x00#8])

/-! ## The commands -/

/-- R80: GET reads one cell of `S`, or faults. -/
def Obligations.GetReadsCell : Prop :=
  ∀ (s : State) (a b : Byte),
    OneWord (.get a b) (packWord 0x01#8 a b 0x00#8) ∧
    ChecksPayload (.get a b) 0 3 s ∧
    (s.input = [] → (3 < a.toNat ∨ 3 < b.toNat) → exec (.get a b) s = .next (faulted s 5)) ∧
    (∀ r c : Fin 4, s.input = [] → a.toNat = r.val → b.toNat = c.val →
      exec (.get a b) s = .next (completed s [cell s.S r c]))

/-- R81: SET writes one cell of `S` and no other, or faults. -/
def Obligations.SetWritesOneCell : Prop :=
  ∀ (s : State) (a b v : Byte),
    OneWord (.set a b v) (packWord 0x02#8 a b v) ∧
    ChecksPayload (.set a b v) 0 3 s ∧
    (s.input = [] → (3 < a.toNat ∨ 3 < b.toNat) → exec (.set a b v) s = .next (faulted s 5)) ∧
    (∀ r c : Fin 4, s.input = [] → a.toNat = r.val → b.toNat = c.val →
      ∃ B : Block, exec (.set a b v) s = .next (completed { s with S := B } []) ∧ cell B r c = v ∧
        ∀ r' c' : Fin 4, (r', c') ≠ (r, c) → cell B r' c' = cell s.S r' c')

/-- R82 and R83: LDBLK loads `S` row-major from a payload of 16 bytes; STBLK returns it row-major and changes nothing. -/
def Obligations.LoadAndStoreBlock : Prop :=
  ∀ s : State,
    OneWord .ldblk 0x03000000#32 ∧ ChecksPayload .ldblk 16 3 s ∧
    (s.input.length = 16 →
      ∃ B : Block, exec .ldblk s = .next (completed { s with S := B } []) ∧
        ∀ r c : Fin 4, s.input[4 * r.val + c.val]? = some (cell B r c)) ∧
    OneWord .stblk 0x04000000#32 ∧ ChecksPayload .stblk 0 3 s ∧
    (s.input = [] →
      ∃ out : Bytes, exec .stblk s = .next (completed s out) ∧ out.length = 16 ∧
        ∀ r c : Fin 4, out[4 * r.val + c.val]? = some (cell s.S r c))

/-- R98 to R103: each of the six transform commands replaces `S` by its function of `S`, without a key. -/
def Obligations.TransformsReplaceS : Prop :=
  ∀ (s : State) (row : Instr × CommandWord × (Block → Block)),
    row ∈ [(.subbytes, 0x10000000#32, subBytes), (.invsubbytes, 0x11000000#32, invSubBytes),
      (.shiftrows, 0x12000000#32, shiftRows), (.invshiftrows, 0x13000000#32, invShiftRows),
      (.mixcolumns, 0x14000000#32, mixColumns), (.invmixcolumns, 0x15000000#32, invMixColumns)] →
    OneWord row.1 row.2.1 ∧ ChecksPayload row.1 0 3 s ∧
    (s.input = [] → exec row.1 s = .next (completed { s with S := row.2.2 s.S } []))

/-- R104 and R105: ADDRK XORs round key `a` into `S` and checks the index before the key; ADDRKI XORs the Block in the
payload and needs no key. -/
def Obligations.AddRoundKeyCommands : Prop :=
  ∀ (s : State) (a : Byte),
    OneWord (.addrk a) (packWord 0x16#8 a 0x00#8 0x00#8) ∧
    ChecksPayload (.addrk a) 0 3 s ∧
    (s.input = [] → 10 < a.toNat → exec (.addrk a) s = .next (faulted s 5)) ∧
    (s.input = [] → a.toNat ≤ 10 → s.KEYV = false → exec (.addrk a) s = .next (faulted s 6)) ∧
    (∀ k : Fin 11, s.input = [] → a.toNat = k.val → s.KEYV = true →
      exec (.addrk a) s = .next (completed { s with S := addRoundKey s.S s.RK[k] } [])) ∧
    OneWord .addrki 0x17000000#32 ∧ ChecksPayload .addrki 16 3 s ∧
    (s.input.length = 16 →
      ∃ K : Block, fill s.input = some K ∧ exec .addrki s = .next (completed { s with S := addRoundKey s.S K } []))

/-- R113: SETKEY with 16 bytes writes all eleven round keys and sets `KEYV`; any other length is InvalidKeyLength and
leaves the key as it was. -/
def Obligations.SetKeyExpands : Prop :=
  ∀ s : State,
    OneWord .setkey 0x20000000#32 ∧ ChecksPayload .setkey 16 4 s ∧
    (s.input.length = 16 →
      ∃ K : Block, fill s.input = some K ∧
        exec .setkey s = .next (completed { s with RK := expandKey K, KEYV := true } []))

/-- R114: GETRK returns round key `a` row-major; the index is checked before the key. -/
def Obligations.GetRoundKey : Prop :=
  ∀ (s : State) (a : Byte),
    OneWord (.getrk a) (packWord 0x21#8 a 0x00#8 0x00#8) ∧
    ChecksPayload (.getrk a) 0 3 s ∧
    (s.input = [] → 10 < a.toNat → exec (.getrk a) s = .next (faulted s 5)) ∧
    (s.input = [] → a.toNat ≤ 10 → s.KEYV = false → exec (.getrk a) s = .next (faulted s 6)) ∧
    (∀ k : Fin 11, s.input = [] → a.toNat = k.val → s.KEYV = true →
      exec (.getrk a) s = .next (completed s (drain s.RK[k])))

/-- R115: CLRKEY clears `KEYV`; the content of `RK` after it is some schedule (a free value, log entry 3), `S` and `FAULTS`
are not touched, and with no key it changes nothing. -/
def Obligations.ClearKeyEndsCipher : Prop :=
  ∀ s : State,
    OneWord .clrkey 0x22000000#32 ∧ ChecksPayload .clrkey 0 3 s ∧
    (s.input = [] →
      ∃ (rk : Vector Block 11) (n : Nat),
        exec .clrkey s = .next (completed { s with RK := rk, KEYV := false, freeCount := n } [])) ∧
    (s.input = [] → s.KEYV = false → exec .clrkey s = .next (completed s []))

/-- R122 and R123, with R120: GMUL returns `gmul(a, b)`, XTIME the shift by one with the reduction; neither touches the
state. -/
def Obligations.FieldCommandsAnswer : Prop :=
  ∀ (s : State) (a b : Byte),
    OneWord (.gmul a b) (packWord 0x30#8 a b 0x00#8) ∧ ChecksPayload (.gmul a b) 0 3 s ∧
    (s.input = [] → exec (.gmul a b) s = .next (completed s [gmul a b])) ∧
    OneWord (.xtime a) (packWord 0x31#8 a 0x00#8 0x00#8) ∧ ChecksPayload (.xtime a) 0 3 s ∧
    (s.input = [] →
      exec (.xtime a) s = .next (completed s [(a <<< 1) ^^^ (if a.toNat < 128 then 0x00#8 else 0x1B#8)]))

/-- R132 and R133: ENCBLK and DECBLK replace `S` by the encryption and the decryption of `S` under the key schedule, and
raise NoKey without one. -/
def Obligations.CipherBlockCommands : Prop :=
  ∀ s : State,
    OneWord .encblk 0x40000000#32 ∧ ChecksPayload .encblk 0 3 s ∧
    (s.input = [] → s.KEYV = false → exec .encblk s = .next (faulted s 6)) ∧
    (s.input = [] → s.KEYV = true → exec .encblk s = .next (completed { s with S := encryptBlock s.S s.RK } [])) ∧
    OneWord .decblk 0x41000000#32 ∧ ChecksPayload .decblk 0 3 s ∧
    (s.input = [] → s.KEYV = false → exec .decblk s = .next (faulted s 6)) ∧
    (s.input = [] → s.KEYV = true → exec .decblk s = .next (completed { s with S := decryptBlock s.S s.RK } []))

/-- R146: ENCRYPT returns the base64 text of the ECB encryption of the padded payload, for every length; no state is
written. -/
def Obligations.EncryptAnswersText : Prop :=
  ∀ s : State,
    OneWord .encrypt 0x50000000#32 ∧
    (Overruns s → exec .encrypt s = .next (faulted s 2)) ∧
    (¬ Overruns s → s.KEYV = false → exec .encrypt s = .next (faulted s 6)) ∧
    (¬ Overruns s → s.KEYV = true →
      exec .encrypt s = .next (completed s (b64encode (ecbEncryptBytes s.input s.RK))))

/-- R147: DECRYPT returns the decrypted bytes, padding included, and raises DecodeError when the decoded length is not a
multiple of 16, after NoKey; no other state is written. -/
def Obligations.DecryptAnswersBytes : Prop :=
  ∀ s : State,
    OneWord .decrypt 0x51000000#32 ∧
    (Overruns s → exec .decrypt s = .next (faulted s 2)) ∧
    (¬ Overruns s → s.KEYV = false → exec .decrypt s = .next (faulted s 6)) ∧
    (¬ Overruns s → s.KEYV = true → (b64decode s.input).length % 16 ≠ 0 → exec .decrypt s = .next (faulted s 7)) ∧
    (¬ Overruns s → s.KEYV = true → (b64decode s.input).length % 16 = 0 →
      exec .decrypt s = .next (completed s (ecbDecryptBytes (b64decode s.input) s.RK)))

/-- R166 and R167: B64ENC and B64DEC return the text and the bytes, need no key and never fault but by Overrun. -/
def Obligations.Base64Commands : Prop :=
  ∀ s : State,
    OneWord .b64enc 0x60000000#32 ∧
    (Overruns s → exec .b64enc s = .next (faulted s 2)) ∧
    (¬ Overruns s → exec .b64enc s = .next (completed s (b64encode s.input))) ∧
    OneWord .b64dec 0x61000000#32 ∧
    (Overruns s → exec .b64dec s = .next (faulted s 2)) ∧
    (¬ Overruns s → exec .b64dec s = .next (completed s (b64decode s.input)))

/-- R180: RDSTAT returns `STATUS` and `FAULTS` and changes nothing. In a state whose reserved bit of `FAULTS` is set, which
no run reaches, the byte read has bit 0 clear all the same (R26). -/
def Obligations.ReadStatus : Prop :=
  ∀ s : State,
    OneWord .rdstat 0x70000000#32 ∧ ChecksPayload .rdstat 0 3 s ∧
    (s.input = [] →
      exec .rdstat s = .next (completed s [if s.KEYV then 0x01#8 else 0x00#8, s.FAULTS &&& 0xFE#8])) ∧
    (s.input = [] → FaultsReserved s →
      exec .rdstat s = .next (completed s [if s.KEYV then 0x01#8 else 0x00#8, s.FAULTS]))

/-! ## Faults -/

/-- R192 to R198: of all faults that apply to a command, the one with the smallest code is reported and only that one
recorded; a command to which none applies completes and records none. Decoding comes before all of them. -/
def Obligations.SmallestFaultReported : Prop :=
  (∀ (i : Instr) (s : State),
    (∀ n, Reports i s n → exec i s = .next (faulted s n)) ∧
    ((∀ n, ¬ FaultApplies i s n) →
      ∃ (t : State) (out : Bytes), exec i s = .next (completed t out) ∧ t.FAULTS = s.FAULTS ∧ t.responses = s.responses)) ∧
  (∀ (s : State) (cw : CommandWord) (p : Bytes) (rest : List HostAction),
    s.pending = .command cw p :: rest → (∀ i, decode cw ≠ .ok i) → step s = .next (faulted { s with pending := rest } 1))

/-- R199: a command that answers a nonzero status has the effect of that fault and no other: `OUT = []`, the bit of its
code in `FAULTS`, `S`, `RK` and `KEYV` as before. -/
def Obligations.FaultEntryChangesOnlyFaults : Prop :=
  ∀ (i : Instr) (s t : State) (st : Byte) (out : Bytes),
    exec i s = .next t → t.responses = s.responses ++ [⟨st, out⟩] → st ≠ 0x00#8 → t = faulted s st.toNat

/-- R25 and R190: every issued command, whatever its word, is answered by one response with a code of 0 to 7, its payload
is gone, and bit `n` of `FAULTS`, `n` in 1 to 7, is set exactly when it was set or the response has code `n`. -/
def Obligations.FaultsRecordsCodes : Prop :=
  ∀ (s : State) (cw : CommandWord) (p : Bytes) (rest : List HostAction), s.pending = .command cw p :: rest →
    ∃ (t : State) (st : Byte) (out : Bytes), step s = .next t ∧ t.responses = s.responses ++ [⟨st, out⟩] ∧
      st.toNat ≤ 7 ∧ t.pending = rest ∧ t.input = [] ∧
      ∀ n : Nat, 1 ≤ n → n ≤ 7 → (t.FAULTS.getLsbD n = true ↔ s.FAULTS.getLsbD n = true ∨ st.toNat = n)

/-- No run ever stops: the core is never left stuck or halted, from any state and for any number of steps
(spec/60_exceptions.md R199; spec/70_reset_and_hazards.md R230). -/
def Obligations.NoRunStops : Prop :=
  ∀ (k : Nat) (s : State), ∃ t : State, Host.Core.run Sys2Proof.core k s = .next t

/-! ## Invariants, frame and isolation -/

/-- R32: while `KEYV = 1` the key schedule is the expansion of one key; every step keeps that. -/
def Obligations.KeyInvariantKept : Prop :=
  ∀ s t : State, KeyInvariant s → step s = .next t → KeyInvariant t

/-- R25, R26: bit 0 of `FAULTS` stays 0. -/
def Obligations.FaultsReservedKept : Prop :=
  ∀ s t : State, FaultsReserved s → step s = .next t → FaultsReserved t

/-- Both invariants hold in every reset state (R31), and in State.reset, which is one. -/
def Obligations.InvariantsHoldAtReset : Prop :=
  IsReset State.reset ∧ ∀ s : State, IsReset s → KeyInvariant s ∧ FaultsReserved s

/-- R33, the writes: a command that answers leaves `S` alone unless it is one that writes `S`, leaves `RK` and `KEYV` alone
unless it is SETKEY or CLRKEY, and changes neither the host's list nor the payload limit. -/
def Obligations.CommandsWriteOnlyTheirOwn : Prop :=
  ∀ (i : Instr) (s t : State), exec i s = .next t →
    (writesS i = false → t.S = s.S) ∧
    (i ≠ .setkey → i ≠ .clrkey → t.RK = s.RK ∧ t.KEYV = s.KEYV ∧ t.freeCount = s.freeCount) ∧
    t.pending = s.pending ∧ t.maxPayload = s.maxPayload

/-- R33 and R29, the reads: a command that does not use `S` answers the same whatever `S` holds, and leaves it there. -/
def Obligations.CommandsThatIgnoreS : Prop :=
  ∀ (i : Instr) (s : State) (B : Block), ignoresS i = true →
    ∃ t : State, exec i s = .next t ∧ exec i { s with S := B } = .next { t with S := B }

/-- R24: while `KEYV = 0` the content of `RK` cannot be observed: two states that differ in `RK` alone give the same
responses in every run. -/
def Obligations.RoundKeysUnobservableWithoutKey : Prop :=
  ∀ (k : Nat) (s s' : State), SameButRK s s' → s.KEYV = false →
    ∃ t t' : State, Host.Core.run Sys2Proof.core k s = .next t ∧ Host.Core.run Sys2Proof.core k s' = .next t' ∧
      t.responses = t'.responses

/-! ## Tables, transforms and the field -/

/-- R91: the two tables are inverse to each other; and the forward table has no fixed point (R90). -/
def Obligations.SboxTablesInverse : Prop :=
  ∀ v : Byte, invSbox (sbox v) = v ∧ sbox (invSbox v) = v ∧ sbox v ≠ v

/-- R92 to R95 and R106, cell by cell. -/
def Obligations.TransformsCellByCell : Prop :=
  ∀ (B K : Block) (r c : Fin 4),
    cell (subBytes B) r c = sbox (cell B r c) ∧
    cell (invSubBytes B) r c = invSbox (cell B r c) ∧
    cell (shiftRows B) r c = cell B r ⟨(c.val + r.val) % 4, Nat.mod_lt _ (by decide)⟩ ∧
    cell (invShiftRows B) r c = cell B r ⟨(c.val + 4 - r.val) % 4, Nat.mod_lt _ (by decide)⟩ ∧
    cell (addRoundKey B K) r c = cell B r c ^^^ cell K r c

/-- R96 and R97: each column is the product with the fixed polynomial modulo `x⁴+1` over GF(2^8). -/
def Obligations.ColumnMixingIsPolynomialProduct : Prop :=
  ∀ (B : Block) (i c : Fin 4),
    cell (mixColumns B) i c = productCoefficient mixCoefficient (colOf B c) i ∧
    cell (invMixColumns B) i c = productCoefficient invMixCoefficient (colOf B c) i

/-- R107: the four inverse identities, in both orders where there are two. -/
def Obligations.TransformsInvert : Prop :=
  ∀ B K : Block,
    invSubBytes (subBytes B) = B ∧ subBytes (invSubBytes B) = B ∧
    invShiftRows (shiftRows B) = B ∧ shiftRows (invShiftRows B) = B ∧
    invMixColumns (mixColumns B) = B ∧ mixColumns (invMixColumns B) = B ∧
    addRoundKey (addRoundKey B K) K = B

/-- R124: the arithmetic laws of the field. -/
def Obligations.FieldLaws : Prop :=
  ∀ a b c : Byte,
    gmul a 0 = 0 ∧ gmul 0 a = 0 ∧ gmul a 1 = a ∧ gmul 1 a = a ∧
    gmul a 2 = xtime a ∧ gmul a 3 = xtime a ^^^ a ∧
    gmul a b = gmul b a ∧
    gmul a (b ^^^ c) = gmul a b ^^^ gmul a c ∧
    gmul (gmul a b) c = gmul a (gmul b c) ∧
    (a ≠ 0 → ∃ x, gmul a x = 1 ∧ ∀ y, gmul a y = 1 → y = x) ∧
    gmul (xtime a) 0x8D = a

/-- R121: the product is the XOR, over the set bits `i` of `b`, of `a` doubled `i` times. -/
def Obligations.ProductIsSumOfDoublings : Prop :=
  ∀ a b : Byte,
    gmul a b = (List.range 8).foldl (fun p i => if b.getLsbD i then p ^^^ xtime^[i] a else p) 0x00#8

/-! ## The key schedule and the cipher -/

/-- R110: the ten round constants. -/
def Obligations.RoundConstants : Prop :=
  (List.range 10).map rconAfter =
    [0x01#8, 0x02#8, 0x04#8, 0x08#8, 0x10#8, 0x20#8, 0x40#8, 0x80#8, 0x1B#8, 0x36#8]

/-- R112: the eleven round keys, cell by cell: the first is the key; column 0 of each next one is column 0 of the one
before XORed with its last column rotated up, substituted and given the round constant in row 0; every other column is the
column before in the old key XORed with the new column to its left. -/
def Obligations.KeyExpansionRecurrence : Prop :=
  ∀ K : Block, (expandKey K)[0] = K ∧
    ∀ (k : Nat) (h : k + 1 < 11) (i : Fin 4),
      cell (expandKey K)[k + 1] i 0 =
        cell (expandKey K)[k] i 0 ^^^ sbox (cell (expandKey K)[k] (i + 1) 3) ^^^ (if i = 0 then rconAfter k else 0x00#8) ∧
      ∀ (c c' : Fin 4), c.val = c'.val + 1 →
        cell (expandKey K)[k + 1] i c = cell (expandKey K)[k] i c ^^^ cell (expandKey K)[k + 1] i c'

/-- R116: round key 0 is the key itself, and the values the rule gives for the all-zero key and the sample key, by
columns. -/
def Obligations.KnownKeySchedules : Prop :=
  let zero : Block := ofColumns ⟨0, 0, 0, 0⟩ ⟨0, 0, 0, 0⟩ ⟨0, 0, 0, 0⟩ ⟨0, 0, 0, 0⟩
  let sample : Block := ofColumns ⟨0x2b, 0x7e, 0x15, 0x16⟩ ⟨0x28, 0xae, 0xd2, 0xa6⟩ ⟨0xab, 0xf7, 0x15, 0x88⟩ ⟨0x09, 0xcf, 0x4f, 0x3c⟩
  (∀ K : Block, (expandKey K)[0] = K) ∧
  (expandKey zero)[1] = ofColumns ⟨0x62, 0x63, 0x63, 0x63⟩ ⟨0x62, 0x63, 0x63, 0x63⟩ ⟨0x62, 0x63, 0x63, 0x63⟩ ⟨0x62, 0x63, 0x63, 0x63⟩ ∧
  (expandKey zero)[10] = ofColumns ⟨0xb4, 0xef, 0x5b, 0xcb⟩ ⟨0x3e, 0x92, 0xe2, 0x11⟩ ⟨0x23, 0xe9, 0x51, 0xcf⟩ ⟨0x6f, 0x8f, 0x18, 0x8e⟩ ∧
  (expandKey sample)[10] = ofColumns ⟨0xd0, 0x14, 0xf9, 0xa8⟩ ⟨0xc9, 0xee, 0x25, 0x89⟩ ⟨0xe1, 0x3f, 0x0c, 0xc8⟩ ⟨0xb6, 0x63, 0x0c, 0xa6⟩

/-- R134: decryption and encryption under one key schedule undo each other, for every schedule. -/
def Obligations.CipherInverts : Prop :=
  ∀ (B : Block) (RK : Vector Block 11),
    decryptBlock (encryptBlock B RK) RK = B ∧ encryptBlock (decryptBlock B RK) RK = B

/-- R135: the source's known-answer vector, its three strings read column-first. -/
def Obligations.KnownAnswerVector : Prop :=
  ∃ K P C : Block,
    colfirst [0x2b, 0x7e, 0x15, 0x16, 0x28, 0xae, 0xd2, 0xa6, 0xab, 0xf7, 0x15, 0x88, 0x09, 0xcf, 0x4f, 0x3c] = some K ∧
    colfirst [0x6b, 0xc1, 0xbe, 0xe2, 0x2e, 0x40, 0x9f, 0x96, 0xe9, 0x3d, 0x7e, 0x11, 0x73, 0x93, 0x17, 0x2a] = some P ∧
    colfirst [0x3a, 0xd7, 0x7b, 0xb4, 0x0d, 0x7a, 0x36, 0x60, 0xa8, 0x9e, 0xca, 0xf3, 0x24, 0x66, 0xef, 0x97] = some C ∧
    encryptBlock P (expandKey K) = C

/-- R132 and R133: ENCBLK and DECBLK equal in effect their sequences of transform commands. -/
def Obligations.CipherIsTransformSequence : Prop :=
  ∀ s : State, s.input = [] → s.KEYV = true →
    (∃ rs, execAll encryptSequence s = .next { s with S := encryptBlock s.S s.RK, responses := rs }) ∧
    (∃ rs, execAll decryptSequence s = .next { s with S := decryptBlock s.S s.RK, responses := rs })

/-! ## Payload order, message mode, base64 -/

/-- R41 and R42: fill and drain are row-major and inverse to each other; fill gives a Block for 16 bytes only. -/
def Obligations.FillAndDrainRowMajor : Prop :=
  (∀ q : Bytes, q.length ≠ 16 → fill q = none) ∧
  (∀ q : Bytes, q.length = 16 →
    ∃ B : Block, fill q = some B ∧ drain B = q ∧ ∀ r c : Fin 4, q[4 * r.val + c.val]? = some (cell B r c)) ∧
  (∀ B : Block, fill (drain B) = some B ∧ (drain B).length = 16)

/-- R44: the transpose of a sequence of 16 bytes undoes itself, and turns the row-major order into the column-first one. -/
def Obligations.TransposeLaws : Prop :=
  (∀ q : Bytes, q.length = 16 →
    ∃ (q' : Bytes) (B : Block), transposeBytes q = some q' ∧ transposeBytes q' = some q ∧ fill q' = some B ∧
      colfirst q = some B ∧ ∀ r c : Fin 4, q[r.val + 4 * c.val]? = some (cell B r c)) ∧
  (∀ B : Block, transposeBytes (colfirstDrain B) = some (drain B) ∧ colfirst (colfirstDrain B) = some B)

/-- R140: padding adds fewer than 16 zero bytes and reaches the least multiple of 16 that holds the message. -/
def Obligations.PaddingIsLeast : Prop :=
  ∀ p : Bytes, (pad p).length = 16 * ((p.length + 15) / 16) ∧
    ∃ z : Nat, z < 16 ∧ pad p = p ++ List.replicate z 0x00#8

/-- R142 and R143: block `j` of the result is the encryption (decryption) of block `j` of the padded message (of the
ciphertext), whatever the other blocks are, and the length is kept. -/
def Obligations.BlocksIndependent : Prop :=
  ∀ (p c : Bytes) (RK : Vector Block 11),
    (ecbEncryptBytes p RK).length = (pad p).length ∧
    (∀ j, blockAt (ecbEncryptBytes p RK) j = (blockAt (pad p) j).map fun B => encryptBlock B RK) ∧
    (c.length % 16 = 0 → (ecbDecryptBytes c RK).length = c.length ∧
      ∀ j, blockAt (ecbDecryptBytes c RK) j = (blockAt c j).map fun B => decryptBlock B RK)

/-- R150: trailing zero bytes that pad to the same length give the same text. -/
def Obligations.PaddingAmbiguity : Prop :=
  ∀ (p : Bytes) (k : Nat) (RK : Vector Block 11), (p.length + k + 15) / 16 = (p.length + 15) / 16 →
    encryptText (p ++ List.replicate k 0x00#8) RK = encryptText p RK

/-- R152: the length of ENCRYPT's text; and DECRYPT's result has the decoded length, a multiple of 16. -/
def Obligations.MessageLengths : Prop :=
  ∀ (p t out : Bytes) (RK : Vector Block 11),
    (encryptText p RK).length = 4 * ((16 * ((p.length + 15) / 16) + 2) / 3) ∧
    (decryptText t RK = some out → out.length = (b64decode t).length ∧ out.length % 16 = 0)

/-- R148, at the command port: DECRYPT of the text that ENCRYPT returned answers the padded plaintext under the same key
schedule, and is never malformed. -/
def Obligations.MessageRoundTrip : Prop :=
  ∀ s : State, s.KEYV = true → ¬ Overruns s →
    ∃ text : Bytes, exec .encrypt s = .next (completed s text) ∧ decryptText text s.RK = some (pad s.input) ∧
      (¬ Overruns { s with input := text } → exec .decrypt { s with input := text } = .next (completed s (pad s.input)))

/-- R161, the shape of the text: `4 * ((n + 2) div 3)` bytes, alphabet codes and then only the pad character, twice for one
leftover byte, once for two, not at all for none. -/
def Obligations.EncodedTextShape : Prop :=
  ∀ q : Bytes, (b64encode q).length = 4 * ((q.length + 2) / 3) ∧
    ∃ body : Bytes, b64encode q = body ++ List.replicate ((3 - q.length % 3) % 3) 0x3D#8 ∧
      ∀ x ∈ body, ∃ v, charValue x = some v

/-- R164: the decoded length from the number of leading alphabet characters. -/
def Obligations.DecodedLength : Prop :=
  ∀ t : Bytes, (b64decode t).length * 4 ≤ 3 * t.length ∧
    (b64decode t).length =
      3 * ((t.takeWhile fun x => (charValue x).isSome).length / 4) +
        ((t.takeWhile fun x => (charValue x).isSome).length % 4 - 1)

/-- R165: decoding an encoded byte sequence gives it back; encoding a decoded text gives it back only when the text is
canonical. -/
def Obligations.Base64RoundTrip : Prop :=
  (∀ q : Bytes, b64decode (b64encode q) = q) ∧
  (∀ t : Bytes, b64encode (b64decode t) = t ↔ ∃ q : Bytes, t = b64encode q)

/-- R162: from the first byte that is no alphabet character on, nothing is looked at (R168). -/
def Obligations.DecoderStopsForGood : Prop :=
  ∀ (t u : Bytes) (x : Byte), charValue x = none → b64decode (t ++ x :: u) = b64decode t

/-- R160 and R163: the alphabet as one string of codes, and `val` its inverse. -/
def Obligations.AlphabetTable : Prop :=
  (List.range 64).map (fun v => alpha (BitVec.ofNat 6 v)) =
    "ABCDEFGHIJKLMNOPQRSTUVWXYZabcdefghijklmnopqrstuvwxyz0123456789+/".toList.map (fun ch => BitVec.ofNat 8 ch.toNat) ∧
  (∀ v : BitVec 6, charValue (alpha v) = some v) ∧
  (∀ (x : Byte) (v : BitVec 6), charValue x = some v → alpha v = x) ∧
  charValue 0x3D#8 = none
end

