-- ==== Sys2Proof/Laws/Block.lean ====
section
/-! SUPPORT. Rows, columns and cells: each accessor of a Block built cell by cell, and that a Block is its cells
(spec/00_scope.md R9). -/

namespace Sys2Proof.Machine

@[simp] theorem wordGet_wordOf (f : Fin 4 → Byte) (i : Fin 4) : wordGet (wordOf f) i = f i := by
  fin_cases i <;> rfl

@[simp] theorem rowOf_blockOf (f : Fin 4 → Fin 4 → Byte) (r : Fin 4) : rowOf (blockOf f) r = wordOf (f r) := by
  fin_cases r <;> rfl

@[simp] theorem cell_blockOf (f : Fin 4 → Fin 4 → Byte) (r c : Fin 4) : cell (blockOf f) r c = f r c := by
  simp [cell]

@[simp] theorem wordGet_colOf (B : Block) (r c : Fin 4) : wordGet (colOf B c) r = cell B r c := by
  simp [colOf]

theorem word_ext (u v : Word) (h : ∀ i, wordGet u i = wordGet v i) : u = v := by
  cases u; cases v
  simp only [Word.mk.injEq]
  exact ⟨h 0, h 1, h 2, h 3⟩

/-- Two Blocks are equal when all 16 bytes are equal (R9). -/
theorem block_ext (A B : Block) (h : ∀ r c, cell A r c = cell B r c) : A = B := by
  cases A; cases B
  simp only [Block.mk.injEq]
  exact ⟨word_ext _ _ (h 0), word_ext _ _ (h 1), word_ext _ _ (h 2), word_ext _ _ (h 3)⟩

@[simp] theorem blockOf_cell (B : Block) : blockOf (cell B) = B := block_ext _ _ fun r c => by simp

/-- The written cell holds the byte, the other 15 keep theirs (spec/40_state_block.md R81). -/
theorem cell_setCell (B : Block) (r c r' c' : Fin 4) (v : Byte) :
    cell (setCell B r c v) r' c' = if r' = r ∧ c' = c then v else cell B r' c' := by
  simp [setCell]

@[simp] theorem drain_length (B : Block) : (drain B).length = 16 := rfl

theorem fill_none_of_length {q : Bytes} (h : fill q = none) : q.length ≠ 16 := by
  intro hl
  match q, hl with
  | [_, _, _, _, _, _, _, _, _, _, _, _, _, _, _, _], _ => simp [fill] at h

theorem length_of_fill {q : Bytes} {B : Block} (h : fill q = some B) : q.length = 16 := by
  unfold fill at h
  split at h
  · rfl
  · simp at h

end Sys2Proof.Machine
end

