-- ==== Sys2Proof/Laws/State.lean ====
section
/-! SUPPORT. What each named operation leaves in each field of the state, true by definition, so that no later proof
unfolds a record update. -/

namespace Sys2Proof.Machine

@[simp] theorem writeS_S (B : Block) (s : State) : (writeS B s).S = B := rfl
@[simp] theorem writeS_RK (B : Block) (s : State) : (writeS B s).RK = s.RK := rfl
@[simp] theorem writeS_KEYV (B : Block) (s : State) : (writeS B s).KEYV = s.KEYV := rfl
@[simp] theorem writeS_FAULTS (B : Block) (s : State) : (writeS B s).FAULTS = s.FAULTS := rfl
@[simp] theorem writeS_input (B : Block) (s : State) : (writeS B s).input = s.input := rfl
@[simp] theorem writeS_responses (B : Block) (s : State) : (writeS B s).responses = s.responses := rfl
@[simp] theorem writeS_pending (B : Block) (s : State) : (writeS B s).pending = s.pending := rfl
@[simp] theorem writeS_maxPayload (B : Block) (s : State) : (writeS B s).maxPayload = s.maxPayload := rfl
@[simp] theorem writeS_freeCount (B : Block) (s : State) : (writeS B s).freeCount = s.freeCount := rfl

@[simp] theorem writeKey_S (rk : Vector Block 11) (s : State) : (writeKey rk s).S = s.S := rfl
@[simp] theorem writeKey_RK (rk : Vector Block 11) (s : State) : (writeKey rk s).RK = rk := rfl
@[simp] theorem writeKey_KEYV (rk : Vector Block 11) (s : State) : (writeKey rk s).KEYV = true := rfl
@[simp] theorem writeKey_FAULTS (rk : Vector Block 11) (s : State) : (writeKey rk s).FAULTS = s.FAULTS := rfl
@[simp] theorem writeKey_input (rk : Vector Block 11) (s : State) : (writeKey rk s).input = s.input := rfl
@[simp] theorem writeKey_responses (rk : Vector Block 11) (s : State) : (writeKey rk s).responses = s.responses := rfl
@[simp] theorem writeKey_pending (rk : Vector Block 11) (s : State) : (writeKey rk s).pending = s.pending := rfl
@[simp] theorem writeKey_maxPayload (rk : Vector Block 11) (s : State) : (writeKey rk s).maxPayload = s.maxPayload := rfl
@[simp] theorem writeKey_freeCount (rk : Vector Block 11) (s : State) : (writeKey rk s).freeCount = s.freeCount := rfl

@[simp] theorem respond_S (out : Bytes) (s : State) : (respond out s).S = s.S := rfl
@[simp] theorem respond_RK (out : Bytes) (s : State) : (respond out s).RK = s.RK := rfl
@[simp] theorem respond_KEYV (out : Bytes) (s : State) : (respond out s).KEYV = s.KEYV := rfl
@[simp] theorem respond_FAULTS (out : Bytes) (s : State) : (respond out s).FAULTS = s.FAULTS := rfl
@[simp] theorem respond_input (out : Bytes) (s : State) : (respond out s).input = [] := rfl
@[simp] theorem respond_responses (out : Bytes) (s : State) : (respond out s).responses = s.responses ++ [⟨okByte, out⟩] := rfl
@[simp] theorem respond_pending (out : Bytes) (s : State) : (respond out s).pending = s.pending := rfl
@[simp] theorem respond_maxPayload (out : Bytes) (s : State) : (respond out s).maxPayload = s.maxPayload := rfl
@[simp] theorem respond_freeCount (out : Bytes) (s : State) : (respond out s).freeCount = s.freeCount := rfl

@[simp] theorem raise_S (f : FaultCode) (s : State) : (raise f s).S = s.S := rfl
@[simp] theorem raise_RK (f : FaultCode) (s : State) : (raise f s).RK = s.RK := rfl
@[simp] theorem raise_KEYV (f : FaultCode) (s : State) : (raise f s).KEYV = s.KEYV := rfl
@[simp] theorem raise_FAULTS (f : FaultCode) (s : State) : (raise f s).FAULTS = recordFault f s.FAULTS := rfl
@[simp] theorem raise_input (f : FaultCode) (s : State) : (raise f s).input = [] := rfl
@[simp] theorem raise_responses (f : FaultCode) (s : State) : (raise f s).responses = s.responses ++ [⟨codeByte f, []⟩] := rfl
@[simp] theorem raise_pending (f : FaultCode) (s : State) : (raise f s).pending = s.pending := rfl
@[simp] theorem raise_maxPayload (f : FaultCode) (s : State) : (raise f s).maxPayload = s.maxPayload := rfl
@[simp] theorem raise_freeCount (f : FaultCode) (s : State) : (raise f s).freeCount = s.freeCount := rfl

@[simp] theorem issue_S (p : Bytes) (rest : List HostAction) (s : State) : (issue p rest s).S = s.S := rfl
@[simp] theorem issue_RK (p : Bytes) (rest : List HostAction) (s : State) : (issue p rest s).RK = s.RK := rfl
@[simp] theorem issue_KEYV (p : Bytes) (rest : List HostAction) (s : State) : (issue p rest s).KEYV = s.KEYV := rfl
@[simp] theorem issue_FAULTS (p : Bytes) (rest : List HostAction) (s : State) : (issue p rest s).FAULTS = s.FAULTS := rfl
@[simp] theorem issue_input (p : Bytes) (rest : List HostAction) (s : State) : (issue p rest s).input = p := rfl
@[simp] theorem issue_responses (p : Bytes) (rest : List HostAction) (s : State) : (issue p rest s).responses = s.responses := rfl
@[simp] theorem issue_pending (p : Bytes) (rest : List HostAction) (s : State) : (issue p rest s).pending = rest := rfl
@[simp] theorem issue_maxPayload (p : Bytes) (rest : List HostAction) (s : State) : (issue p rest s).maxPayload = s.maxPayload := rfl
@[simp] theorem issue_freeCount (p : Bytes) (rest : List HostAction) (s : State) : (issue p rest s).freeCount = s.freeCount := rfl

@[simp] theorem takeReset_S (rest : List HostAction) (s : State) : (takeReset rest s).S = freeBlock s.freeCount := rfl
@[simp] theorem takeReset_RK (rest : List HostAction) (s : State) : (takeReset rest s).RK = freeSchedule (s.freeCount + 16) := rfl
@[simp] theorem takeReset_KEYV (rest : List HostAction) (s : State) : (takeReset rest s).KEYV = false := rfl
@[simp] theorem takeReset_FAULTS (rest : List HostAction) (s : State) : (takeReset rest s).FAULTS = 0x00#8 := rfl
@[simp] theorem takeReset_input (rest : List HostAction) (s : State) : (takeReset rest s).input = [] := rfl
@[simp] theorem takeReset_responses (rest : List HostAction) (s : State) : (takeReset rest s).responses = s.responses := rfl
@[simp] theorem takeReset_pending (rest : List HostAction) (s : State) : (takeReset rest s).pending = rest := rfl
@[simp] theorem takeReset_maxPayload (rest : List HostAction) (s : State) : (takeReset rest s).maxPayload = s.maxPayload := rfl
@[simp] theorem takeReset_freeCount (rest : List HostAction) (s : State) : (takeReset rest s).freeCount = s.freeCount + 192 := rfl

@[simp] theorem hold_S (s : State) : (hold s).S = s.S := rfl
@[simp] theorem hold_RK (s : State) : (hold s).RK = s.RK := rfl
@[simp] theorem hold_KEYV (s : State) : (hold s).KEYV = s.KEYV := rfl
@[simp] theorem hold_FAULTS (s : State) : (hold s).FAULTS = s.FAULTS := rfl
@[simp] theorem hold_input (s : State) : (hold s).input = s.input := rfl
@[simp] theorem hold_responses (s : State) : (hold s).responses = s.responses := rfl
@[simp] theorem hold_pending (s : State) : (hold s).pending = s.pending := rfl
@[simp] theorem hold_maxPayload (s : State) : (hold s).maxPayload = s.maxPayload := rfl
@[simp] theorem hold_freeCount (s : State) : (hold s).freeCount = s.freeCount := rfl

@[simp] theorem endCipher_S (s : State) : (endCipher s).S = s.S := by
  unfold endCipher; split <;> rfl

@[simp] theorem endCipher_FAULTS (s : State) : (endCipher s).FAULTS = s.FAULTS := by
  unfold endCipher; split <;> rfl

@[simp] theorem endCipher_input (s : State) : (endCipher s).input = s.input := by
  unfold endCipher; split <;> rfl

@[simp] theorem endCipher_responses (s : State) : (endCipher s).responses = s.responses := by
  unfold endCipher; split <;> rfl

@[simp] theorem endCipher_pending (s : State) : (endCipher s).pending = s.pending := by
  unfold endCipher; split <;> rfl

@[simp] theorem endCipher_maxPayload (s : State) : (endCipher s).maxPayload = s.maxPayload := by
  unfold endCipher; split <;> rfl

/-- After CLRKEY there is no Cipher, whatever was there before. -/
@[simp] theorem endCipher_KEYV (s : State) : (endCipher s).KEYV = false := by
  unfold endCipher; split
  · rfl
  · simpa using ‹¬ s.KEYV = true›

/-- With no Cipher there is nothing to end. -/
theorem endCipher_of_noKey (s : State) (h : s.KEYV = false) : endCipher s = s := by
  simp [endCipher, h]

end Sys2Proof.Machine
end

