-- ==== Sys2Proof/Laws/Ops.lean ====
section
/-! SUPPORT. One lemma per shared operation, saying once everything it can do: the checks, the end of a command, each
command and one step. Later proofs cite these and do not unfold the operations. -/

namespace Sys2Proof.Machine

theorem exceedsLimit_iff (l : PayloadLimit) (n : Nat) :
    exceedsLimit l n = true ↔ ∃ room, l = .atLeast16 room ∧ 16 + room < n := by
  cases l <;> simp [exceedsLimit]

/-- No payload of a legal fixed length overruns (spec/60_exceptions.md R192). -/
theorem exceedsLimit_of_le {n : Nat} (l : PayloadLimit) (h : n ≤ 16) : exceedsLimit l n = false := by
  cases l <;> simp [exceedsLimit]; omega

theorem checkOverrun_ok (s : State) (u : Unit) :
    checkOverrun s = .ok u ↔ exceedsLimit s.maxPayload s.input.length = false := by
  unfold checkOverrun; split <;> simp_all

theorem checkOverrun_error (s : State) (f : FaultCode) :
    checkOverrun s = .error f ↔ f = .overrun ∧ exceedsLimit s.maxPayload s.input.length = true := by
  unfold checkOverrun; split <;> rename_i h <;> simp [h, eq_comm (a := FaultCode.overrun)]

theorem checkNoPayload_ok (s : State) (u : Unit) : checkNoPayload s = .ok u ↔ s.input.length = 0 := by
  unfold checkNoPayload; split <;> simp_all

theorem checkNoPayload_error (s : State) (f : FaultCode) :
    checkNoPayload s = .error f ↔ f = .lengthError ∧ s.input.length ≠ 0 := by
  unfold checkNoPayload; split <;> rename_i h <;> simp [h, eq_comm (a := FaultCode.lengthError)]

theorem cellIndex_ok (a b : Byte) (r c : Fin 4) :
    cellIndex a b = .ok (r, c) ↔ a.toNat = r.val ∧ b.toNat = c.val := by
  unfold cellIndex; split
  · simp [Fin.ext_iff]
  · rename_i h
    refine ⟨fun e => by simp at e, fun e => absurd ⟨?_, ?_⟩ h⟩ <;> omega

theorem cellIndex_error (a b : Byte) (f : FaultCode) :
    cellIndex a b = .error f ↔ f = .indexError ∧ (3 < a.toNat ∨ 3 < b.toNat) := by
  unfold cellIndex; split
  · simp; omega
  · simp only [Except.error.injEq, eq_comm (a := FaultCode.indexError)]
    constructor
    · intro h; exact ⟨h, by omega⟩
    · exact fun h => h.1

theorem roundKeyIndex_ok (a : Byte) (k : Fin 11) : roundKeyIndex a = .ok k ↔ a.toNat = k.val := by
  unfold roundKeyIndex; split
  · simp [Fin.ext_iff]
  · rename_i h
    refine ⟨fun e => by simp at e, fun e => absurd ?_ h⟩; omega

theorem roundKeyIndex_error (a : Byte) (f : FaultCode) :
    roundKeyIndex a = .error f ↔ f = .indexError ∧ 10 < a.toNat := by
  unfold roundKeyIndex; split
  · simp; omega
  · simp only [Except.error.injEq, eq_comm (a := FaultCode.indexError)]
    constructor
    · intro h; exact ⟨h, by omega⟩
    · exact fun h => h.1

theorem keySchedule_ok (s : State) (rk : Vector Block 11) :
    keySchedule s = .ok rk ↔ s.KEYV = true ∧ s.RK = rk := by
  unfold keySchedule; split <;> simp_all

theorem keySchedule_error (s : State) (f : FaultCode) :
    keySchedule s = .error f ↔ f = .noKey ∧ s.KEYV = false := by
  unfold keySchedule; split <;> rename_i h <;> simp [h, eq_comm (a := FaultCode.noKey)]

/-- A command ends in a next state: the one its effect gave with the answer in it, or the one it began in with the
fault in it. -/
theorem finish_next (s : State) (r : Except FaultCode (State × Bytes)) :
    (∃ t out, r = .ok (t, out) ∧ finish s r = .next (respond out t)) ∨
    (∃ f, r = .error f ∧ finish s r = .next (raise f s)) := by
  match r with
  | .ok (t, out) => exact .inl ⟨t, out, rfl, rfl⟩
  | .error f => exact .inr ⟨f, rfl, rfl⟩

/-- The state writes a command can make: none, all or one cell of `S`, the key, the end of the Cipher. -/
inductive Effect (s : State) : State → Prop where
  | none : Effect s s
  | block (B : Block) : Effect s (writeS B s)
  | key (K : Block) : Effect s (writeKey (expandKey K) s)
  | endKey : Effect s (endCipher s)

/-- A command's end: an answer after one of the writes, or a fault. -/
inductive Ends (s : State) : State → Prop where
  | answer (t : State) (out : Bytes) (h : Effect s t) : Ends s (respond out t)
  | fault (f : FaultCode) : Ends s (raise f s)

/-- A command whose effect is one of the four ends as `Ends` says. -/
theorem finish_ends (s : State) (r : Except FaultCode (State × Bytes))
    (h : ∀ t out, r = .ok (t, out) → Effect s t) : ∃ u, finish s r = .next u ∧ Ends s u := by
  rcases finish_next s r with ⟨t, out, hr, hf⟩ | ⟨f, hr, hf⟩
  · exact ⟨_, hf, .answer t out (h t out hr)⟩
  · exact ⟨_, hf, .fault f⟩

theorem bind_ok {α β : Type} {x : Except FaultCode α} {g : α → Except FaultCode β} {b : β}
    (h : x >>= g = .ok b) : ∃ a, x = .ok a ∧ g a = .ok b := by
  cases x with
  | error e => cases h
  | ok a => exact ⟨a, rfl, h⟩

theorem pure_ok {α : Type} {a b : α} (h : (pure a : Except FaultCode α) = .ok b) : b = a := by
  cases h; rfl

/-- Every command answers, and ends as `Ends` says (spec/10_state.md R33, spec/60_exceptions.md R199). -/
theorem exec_ends (i : Instr) (s : State) : ∃ u, exec i s = .next u ∧ Ends s u := by
  cases i <;> refine finish_ends s _ fun t out h => ?_ <;>
    (repeat (obtain ⟨_, _, h⟩ := bind_ok h)) <;> (cases pure_ok h) <;> constructor

/-- One step: hold, reset, an illegal word, or a command run on its payload. -/
theorem step_cases (s : State) :
    (s.pending = [] ∧ step s = .next (hold s)) ∨
    (∃ rest, s.pending = .reset :: rest ∧ step s = .next (takeReset rest s)) ∨
    (∃ cw p rest e, s.pending = .command cw p :: rest ∧ decode cw = .error e ∧
      step s = .next (raise .illegalCommand (issue p rest s))) ∨
    (∃ cw p rest i, s.pending = .command cw p :: rest ∧ decode cw = .ok i ∧ step s = exec i (issue p rest s)) := by
  match h : s.pending with
  | [] => left; simp [step, h]
  | .reset :: rest => right; left; exact ⟨rest, rfl, by simp [step, h]⟩
  | .command cw p :: rest =>
    right; right
    match hd : decode cw with
    | .error e => left; exact ⟨cw, p, rest, e, rfl, hd, by simp [step, h, hd]⟩
    | .ok i => right; exact ⟨cw, p, rest, i, rfl, hd, by simp [step, h, hd]⟩

/-- A property that a hold, a reset, a fault and every answer keep is kept by every step. -/
theorem step_keeps (P : State → Prop)
    (hreset : ∀ s rest, P s → P (takeReset rest s))
    (hissue : ∀ s p rest, P s → P (issue p rest s))
    (hend : ∀ s u, P s → Ends s u → P u)
    (s t : State) (hs : P s) (h : step s = .next t) : P t := by
  rcases step_cases s with ⟨_, e⟩ | ⟨rest, _, e⟩ | ⟨cw, p, rest, x, _, _, e⟩ | ⟨cw, p, rest, i, _, _, e⟩
  · rw [e] at h; cases h; exact hs
  · rw [e] at h; cases h; exact hreset s rest hs
  · rw [e] at h; cases h; exact hend _ _ (hissue s p rest hs) (.fault _)
  · obtain ⟨u, hu, he⟩ := exec_ends i (issue p rest s)
    rw [e, hu] at h; cases h; exact hend _ _ (hissue s p rest hs) he

end Sys2Proof.Machine
end

