-- ==== Sys2Proof/Laws/Claims.lean ====
section
/-! SUPPORT. The bridge from the model's operations to the terms of the claims: a command's two ends, its checks as
rewriting rules, the payload of 16 bytes, and the fields of a command word. -/

namespace Sys2Proof.Safety

open Sys2Proof Sys2Proof.Machine

theorem overruns_iff (s : State) : Overruns s ↔ exceedsLimit s.maxPayload s.input.length = true := by
  simp [Overruns, exceedsLimit_iff]

theorem not_overruns_of_le {s : State} (h : s.input.length ≤ 16) : ¬ Overruns s := by
  simp [overruns_iff, exceedsLimit_of_le _ h]

theorem raise_eq_faulted (f : FaultCode) (s : State) : raise f s = faulted s (codeNumber f) := by cases f <;> rfl

theorem respond_eq_completed (out : Bytes) (t : State) : respond out t = completed t out := rfl

theorem finish_ok (s t : State) (out : Bytes) : finish s (.ok (t, out)) = .next (completed t out) := rfl

theorem finish_error (s : State) (f : FaultCode) : finish s (.error f) = .next (faulted s (codeNumber f)) := by
  simp [finish, raise_eq_faulted]

/-! The checks, one rule for each answer. -/

@[simp] theorem bind_error_eq {α β : Type} (e : FaultCode) (g : α → Except FaultCode β) :
    (Except.error e >>= g) = .error e := rfl

@[simp] theorem bind_ok_eq {α β : Type} (a : α) (g : α → Except FaultCode β) :
    ((Except.ok a : Except FaultCode α) >>= g) = g a := rfl

@[simp] theorem pure_eq_ok {α : Type} (a : α) : (pure a : Except FaultCode α) = .ok a := rfl

theorem checkOverrun_of_not {s : State} (h : ¬ Overruns s) : checkOverrun s = .ok () :=
  (checkOverrun_ok _ _).2 (by simpa [overruns_iff] using h)

theorem checkOverrun_of {s : State} (h : Overruns s) : checkOverrun s = .error .overrun :=
  (checkOverrun_error _ _).2 ⟨rfl, (overruns_iff s).1 h⟩

theorem checkNoPayload_of_eq {s : State} (h : s.input.length = 0) : checkNoPayload s = .ok () :=
  (checkNoPayload_ok _ _).2 h

theorem checkNoPayload_of_ne {s : State} (h : s.input.length ≠ 0) : checkNoPayload s = .error .lengthError :=
  (checkNoPayload_error _ _).2 ⟨rfl, h⟩

theorem payloadBlock_of_ne {s : State} {f : FaultCode} (h : s.input.length ≠ 16) : payloadBlock f s = .error f := by
  unfold payloadBlock; split
  · rename_i h2; exact absurd (length_of_fill h2) h
  · rfl

theorem payloadBlock_of_fill {s : State} {f : FaultCode} {B : Block} (h : fill s.input = some B) :
    payloadBlock f s = .ok B := by
  simp [payloadBlock, h]

theorem keySchedule_of_key {s : State} (h : s.KEYV = true) : keySchedule s = .ok s.RK := by simp [keySchedule, h]

theorem keySchedule_of_noKey {s : State} (h : s.KEYV = false) : keySchedule s = .error .noKey := by simp [keySchedule, h]

/-! The fields of a command word (spec/30_encoding.md R60). -/

theorem fields_packWord (op a b c : Byte) :
    fieldOp (packWord op a b c) = op ∧ fieldA (packWord op a b c) = a ∧ fieldB (packWord op a b c) = b ∧
      fieldC (packWord op a b c) = c := by
  refine ⟨?_, ?_, ?_, ?_⟩ <;>
  · apply BitVec.eq_of_getLsbD_eq
    intro k hk
    simp only [packWord, fieldOp, fieldA, fieldB, fieldC, BitVec.getLsbD_append, BitVec.getLsbD_extractLsb']
    interval_cases k <;> simp

theorem packWord_fields (cw : CommandWord) : packWord (fieldOp cw) (fieldA cw) (fieldB cw) (fieldC cw) = cw := by
  apply BitVec.eq_of_getLsbD_eq
  intro k hk
  simp only [packWord, fieldOp, fieldA, fieldB, fieldC, BitVec.getLsbD_append, BitVec.getLsbD_extractLsb']
  interval_cases k <;> simp

/-- Which fields a format requires to be zero (R61). -/
def UnusedZero : Format → Byte → Byte → Byte → Prop
  | .n, a, b, c => a = 0 ∧ b = 0 ∧ c = 0
  | .a, _, b, c => b = 0 ∧ c = 0
  | .ab, _, _, c => c = 0
  | .abc, _, _, _ => True

/-- The word with the fields a format does not use cleared passes its test: the mask keeps exactly those and `op`. -/
theorem masked_packWord (f : Format) (op a b c : Byte) :
    packWord op a b c &&& formatMask f =
      match f with
      | .n => packWord op a b c
      | .a => packWord op 0 b c
      | .ab => packWord op 0 0 c
      | .abc => packWord op 0 0 0 := by
  apply BitVec.eq_of_getLsbD_eq
  intro k hk
  cases f <;>
    simp only [packWord, formatMask, BitVec.getLsbD_and, BitVec.getLsbD_append] <;> interval_cases k <;> simp

theorem opMatch_eq (op : Byte) : opMatch op = packWord op 0 0 0 := by
  apply BitVec.eq_of_getLsbD_eq
  intro k hk
  simp only [packWord, opMatch, BitVec.getLsbD_append, BitVec.getLsbD_shiftLeft, BitVec.getLsbD_setWidth]
  interval_cases k <;> simp

theorem packWord_inj (op a b c op' a' b' c' : Byte) :
    packWord op a b c = packWord op' a' b' c' ↔ op = op' ∧ a = a' ∧ b = b' ∧ c = c' := by
  constructor
  · intro h
    obtain ⟨h1, h2, h3, h4⟩ := fields_packWord op a b c
    obtain ⟨k1, k2, k3, k4⟩ := fields_packWord op' a' b' c'
    rw [h] at h1 h2 h3 h4
    exact ⟨h1.symm.trans k1, h2.symm.trans k2, h3.symm.trans k3, h4.symm.trans k4⟩
  · rintro ⟨rfl, rfl, rfl, rfl⟩; rfl

/-- The test of R65 passes exactly when the unused fields are zero. -/
theorem checkFormat_ok (f : Format) (cw : CommandWord) (i j : Instr) :
    checkFormat f cw i = .ok j ↔ i = j ∧ UnusedZero f (fieldA cw) (fieldB cw) (fieldC cw) := by
  have key : cw &&& formatMask f = opMatch (fieldOp cw) ↔ UnusedZero f (fieldA cw) (fieldB cw) (fieldC cw) := by
    conv => lhs; lhs; rw [← packWord_fields cw]
    rw [masked_packWord, opMatch_eq]
    cases f <;> simp [packWord_inj, UnusedZero]
  unfold checkFormat
  split <;> rename_i h
  · simp [key.1 h]
  · simpa using fun _ u => h (key.2 u)

end Sys2Proof.Safety
end

