-- ==== Sys2Proof/Laws/PerInstr.lean ====
section
/-! SUPPORT. A fact about every command as syntax, one lemma per constructor: the word of a command is a word of its row
of the opcode map, its masked bits being the row's match value (spec/30_encoding.md R61). -/

namespace Sys2Proof.Laws.EncodeMatchesRow

open Sys2Proof

/-- The word of a command under the mask of its format is `op * 2^24` (R61). -/
def Statement (i : Instr) : Prop := encode i &&& formatMask (formatOf i) = opMatch (opcodeOf i)

theorem matches_a (op a : Byte) : packWord op a 0 0 &&& formatMask .a = opMatch op := by
  ext k hk
  simp only [packWord, formatMask, opMatch, BitVec.getElem_and, BitVec.getElem_append, BitVec.getElem_shiftLeft]
  interval_cases k <;> simp

theorem matches_ab (op a b : Byte) : packWord op a b 0 &&& formatMask .ab = opMatch op := by
  ext k hk
  simp only [packWord, formatMask, opMatch, BitVec.getElem_and, BitVec.getElem_append, BitVec.getElem_shiftLeft]
  interval_cases k <;> simp

theorem matches_abc (op a b c : Byte) : packWord op a b c &&& formatMask .abc = opMatch op := by
  ext k hk
  simp only [packWord, formatMask, opMatch, BitVec.getElem_and, BitVec.getElem_append, BitVec.getElem_shiftLeft]
  interval_cases k <;> simp

theorem get (a b : Byte) : Statement (.get a b) := matches_ab _ a b
theorem set (a b c : Byte) : Statement (.set a b c) := matches_abc _ a b c
theorem ldblk : Statement .ldblk := by unfold Statement; decide
theorem stblk : Statement .stblk := by unfold Statement; decide
theorem subbytes : Statement .subbytes := by unfold Statement; decide
theorem invsubbytes : Statement .invsubbytes := by unfold Statement; decide
theorem shiftrows : Statement .shiftrows := by unfold Statement; decide
theorem invshiftrows : Statement .invshiftrows := by unfold Statement; decide
theorem mixcolumns : Statement .mixcolumns := by unfold Statement; decide
theorem invmixcolumns : Statement .invmixcolumns := by unfold Statement; decide
theorem addrk (a : Byte) : Statement (.addrk a) := matches_a _ a
theorem addrki : Statement .addrki := by unfold Statement; decide
theorem setkey : Statement .setkey := by unfold Statement; decide
theorem getrk (a : Byte) : Statement (.getrk a) := matches_a _ a
theorem clrkey : Statement .clrkey := by unfold Statement; decide
theorem gmul (a b : Byte) : Statement (.gmul a b) := matches_ab _ a b
theorem xtime (a : Byte) : Statement (.xtime a) := matches_a _ a
theorem encblk : Statement .encblk := by unfold Statement; decide
theorem decblk : Statement .decblk := by unfold Statement; decide
theorem encrypt : Statement .encrypt := by unfold Statement; decide
theorem decrypt : Statement .decrypt := by unfold Statement; decide
theorem b64enc : Statement .b64enc := by unfold Statement; decide
theorem b64dec : Statement .b64dec := by unfold Statement; decide
theorem rdstat : Statement .rdstat := by unfold Statement; decide

end Sys2Proof.Laws.EncodeMatchesRow
end

