-- ==== Sys2Proof/Tests/Slice0.lean ====
section
/-! SUPPORT. Tests: the range checks, decoding of words written out from the opcode map, one step per command with results
from spec/95_test_vectors.md, and a witness for the hypotheses of every statement that has some. -/

namespace Sys2Proof.Tests

-- One theorem at a time: evaluated side by side, the tests need more threads than the check's memory limit has stacks for.
set_option Elab.async false

open Sys2Proof Sys2Proof.Machine Sys2Proof.Safety

/-! ## Operand ranges: an ill-formed term for each check -/

theorem test_wf_get_row : (Instr.get 4 0).wellFormed = false := by decide
theorem test_wf_get_column : (Instr.get 0 4).wellFormed = false := by decide
theorem test_wf_set_row : (Instr.set 4 0 0).wellFormed = false := by decide
theorem test_wf_set_column : (Instr.set 0 4 0).wellFormed = false := by decide
theorem test_wf_addrk : (Instr.addrk 11).wellFormed = false := by decide
theorem test_wf_getrk : (Instr.getrk 11).wellFormed = false := by decide
theorem test_wf_limits :
    (Instr.get 3 3).wellFormed = true ∧ (Instr.set 3 3 255).wellFormed = true ∧ (Instr.addrk 10).wellFormed = true ∧
    (Instr.getrk 10).wellFormed = true ∧ (Instr.gmul 255 255).wellFormed = true := by decide

/-! ## Decoding: words of spec/95_test_vectors.md section 2 (R60, R61, R63, R65), one per constructor -/

theorem test_decode_get : decode 0x01030300#32 = .ok (.get 3 3) := by decide
theorem test_decode_set : decode 0x020302A5#32 = .ok (.set 3 2 165) := by decide
theorem test_decode_ldblk : decode 0x03000000#32 = .ok (.ldblk) := by decide
theorem test_decode_stblk : decode 0x04000000#32 = .ok (.stblk) := by decide
theorem test_decode_subbytes : decode 0x10000000#32 = .ok (.subbytes) := by decide
theorem test_decode_invsubbytes : decode 0x11000000#32 = .ok (.invsubbytes) := by decide
theorem test_decode_shiftrows : decode 0x12000000#32 = .ok (.shiftrows) := by decide
theorem test_decode_invshiftrows : decode 0x13000000#32 = .ok (.invshiftrows) := by decide
theorem test_decode_mixcolumns : decode 0x14000000#32 = .ok (.mixcolumns) := by decide
theorem test_decode_invmixcolumns : decode 0x15000000#32 = .ok (.invmixcolumns) := by decide
theorem test_decode_addrk : decode 0x160A0000#32 = .ok (.addrk 10) := by decide
theorem test_decode_addrki : decode 0x17000000#32 = .ok (.addrki) := by decide
theorem test_decode_setkey : decode 0x20000000#32 = .ok (.setkey) := by decide
theorem test_decode_getrk : decode 0x210A0000#32 = .ok (.getrk 10) := by decide
theorem test_decode_clrkey : decode 0x22000000#32 = .ok (.clrkey) := by decide
theorem test_decode_gmul : decode 0x30578300#32 = .ok (.gmul 0x57 0x83) := by decide
theorem test_decode_xtime : decode 0x31800000#32 = .ok (.xtime 128) := by decide
theorem test_decode_encblk : decode 0x40000000#32 = .ok (.encblk) := by decide
theorem test_decode_decblk : decode 0x41000000#32 = .ok (.decblk) := by decide
theorem test_decode_encrypt : decode 0x50000000#32 = .ok (.encrypt) := by decide
theorem test_decode_decrypt : decode 0x51000000#32 = .ok (.decrypt) := by decide
theorem test_decode_b64enc : decode 0x60000000#32 = .ok (.b64enc) := by decide
theorem test_decode_b64dec : decode 0x61000000#32 = .ok (.b64dec) := by decide
theorem test_decode_rdstat : decode 0x70000000#32 = .ok (.rdstat) := by decide

/-- GET 3, 3 bit by bit: op 00000001, a 00000011, b 00000011, c 00000000 (R60). -/
theorem test_decode_get_bits : decode 0b00000001000000110000001100000000#32 = .ok (.get 3 3) := by decide

/-- The unlisted opcodes of section 2 select no command (R64 a). -/
theorem test_decode_unlisted :
    [0x00000000#32, 0xFFFFFFFF#32, 0x05000000#32, 0x18000000#32, 0x23000000#32, 0x32000000#32, 0x42000000#32, 0x52000000#32,
      0x62000000#32, 0x71000000#32, 0x80000000#32].all (fun cw => decode cw == .error (.unlistedOpcode (fieldOp cw))) = true := by
  decide

/-- The words of section 2 with a field that must be zero (R64 b). -/
theorem test_decode_unused_field :
    [0x01000001#32, 0x03010000#32, 0x10000100#32, 0x16000001#32, 0x16000100#32, 0x210A0001#32, 0x30020301#32, 0x31800100#32,
      0x40000001#32, 0x70FF0000#32].all (fun cw => decode cw == .error (.unusedFieldNotZero (fieldOp cw))) = true := by
  decide

theorem test_decodeTableWord : decodeTableWord 32 0x160A0000 = some (.addrk 10) ∧ decodeTableWord 32 0 = none := by decide

/-! ## One step per command -/

/-- The last response of a step. -/
def answerOf (o : Host.Outcome State Fault Refusal) : Option Response :=
  match o with
  | .next t => t.responses.getLast?
  | .fault _ => none
  | .refused _ => none

/-- A view of the state a step answers with. -/
def after {α : Type} (f : State → α) (o : Host.Outcome State Fault Refusal) : Option α :=
  match o with
  | .next t => some (f t)
  | .fault _ => none
  | .refused _ => none

/-- `s` with one command pending. -/
def asked (cw : CommandWord) (p : Bytes) (s : State) : State := { s with pending := [.command cw p] }

/-- The reset state with the sixteen bytes of a payload in `S`, row-major. -/
def holding (q : Bytes) : State := { State.reset with S := (fill q).getD (splatBlock 0x00#8) }

/-- A state with the expansion of the key Block of a payload. -/
def keyed (q : Bytes) (s : State) : State := { s with RK := expandKey ((fill q).getD (splatBlock 0x00#8)), KEYV := true }

/-- The `n` bytes of a payload written in hexadecimal, first byte first. -/
def hexBytes (n w : Nat) : Bytes := (List.range n).map fun k => BitVec.ofNat 8 (w >>> (8 * (n - 1 - k)))

/-- The character codes of a text. -/
def text (t : String) : Bytes := t.toList.map fun ch => BitVec.ofNat 8 ch.toNat

/-- The payload `000102..0f` of section 3.1. -/
def seq16 : Bytes := hexBytes 16 0x000102030405060708090a0b0c0d0e0f

/-- `K1` as a payload (section 1). -/
def key1 : Bytes := hexBytes 16 0x2b28ab097eaef7cf15d2154f16a6883c

/-- `K2` as a payload. -/
def key2 : Bytes := hexBytes 16 0x2b7e151628aed2a6abf7158809cf4f3c

/-- The plaintext block of V1 as a payload (section 1). -/
def plain1 : Bytes := hexBytes 16 0x6b2ee973c1403d93be9f7e17e296112a

/-- The ciphertext block of V1 as a payload (section 1). -/
def cipher1 : Bytes := hexBytes 16 0x3a0da824d77a9e667b36caefb460f397

/-- A DECRYPT text whose decoded length is 17 (V7). -/
def text17 : Bytes := text "AAECAwQFBgcICQoLDA0ODxA="

/-- The text of `hello world` under `K2` (M3). -/
def text3 : Bytes := text "69zseUTHZJf4MtC6H62lMw=="

/-- Section 3.1: GET 2, 1 of `00..0f` is 09. -/
theorem test_get :
    answerOf (step (asked 0x01020100#32 [] (holding seq16))) = some ⟨0x00#8, [0x09#8]⟩ := by decide +kernel

/-- Section 3.1: GET 4, 0 is IndexError. -/
theorem test_get_index :
    answerOf (step (asked 0x01040000#32 [] (holding seq16))) = some ⟨0x05#8, []⟩ := by decide +kernel

/-- Section 3.1: SET 2, 1, 0xee. -/
theorem test_set :
    after (fun t => drain t.S) (step (asked 0x020201EE#32 [] (holding seq16))) =
      some (hexBytes 16 0x000102030405060708ee0a0b0c0d0e0f) := by decide +kernel

/-- Section 3.1: a faulting SET leaves `S`. -/
theorem test_set_index :
    after (fun t => drain t.S) (step (asked 0x02FFFF01#32 [] (holding seq16))) = some seq16 := by decide +kernel

/-- Section 3.1: LDBLK then STBLK. -/
theorem test_ldblk :
    after (fun t => drain t.S) (step (asked 0x03000000#32 seq16 State.reset)) = some seq16 := by decide +kernel

/-- Section 3.1: LDBLK of 15 bytes is LengthError. -/
theorem test_ldblk_length :
    answerOf (step (asked 0x03000000#32 (seq16.take 15) State.reset)) = some ⟨0x03#8, []⟩ := by decide +kernel

/-- Section 3.1: STBLK returns `S` row-major. -/
theorem test_stblk :
    answerOf (step (asked 0x04000000#32 [] (holding seq16))) = some ⟨0x00#8, seq16⟩ := by decide +kernel

/-- Section 3.1: STBLK with a payload byte is LengthError. -/
theorem test_stblk_length :
    answerOf (step (asked 0x04000000#32 [0x00#8] (holding seq16))) = some ⟨0x03#8, []⟩ := by decide +kernel

/-- Section 3.2. -/
theorem test_subbytes :
    after (fun t => drain t.S) (step (asked 0x10000000#32 [] (holding seq16))) =
      some (hexBytes 16 0x637c777bf26b6fc53001672bfed7ab76) := by decide +kernel

/-- Section 3.2. -/
theorem test_invsubbytes :
    after (fun t => drain t.S) (step (asked 0x11000000#32 [] (holding (hexBytes 16 0x00000000000000000000000000000000)))) =
      some (hexBytes 16 0x52525252525252525252525252525252) := by decide +kernel

/-- Section 3.2. -/
theorem test_shiftrows :
    after (fun t => drain t.S) (step (asked 0x12000000#32 [] (holding seq16))) =
      some (hexBytes 16 0x00010203050607040a0b08090f0c0d0e) := by decide +kernel

/-- Section 3.2. -/
theorem test_invshiftrows :
    after (fun t => drain t.S) (step (asked 0x13000000#32 [] (holding seq16))) =
      some (hexBytes 16 0x00010203070405060a0b08090d0e0f0c) := by decide +kernel

/-- Section 3.2, the column `01 00 00 00` among them. -/
theorem test_mixcolumns :
    after (fun t => drain t.S) (step (asked 0x14000000#32 [] (holding (hexBytes 16 0xd42d0001d4260000d4310000d54c0000)))) =
      some (hexBytes 16 0xd54d0002d57e0001d7bd0001d6f80003) := by decide +kernel

/-- Section 3.2. -/
theorem test_invmixcolumns :
    after (fun t => drain t.S) (step (asked 0x15000000#32 [] (holding seq16))) =
      some (hexBytes 16 0x28292a2b3c3d3e3f2021222334353637) := by decide +kernel

/-- Section 3.2: ADDRK 5 under `K1`. -/
theorem test_addrk :
    after (fun t => drain t.S) (step (asked 0x16050000#32 []
        (keyed key1 (holding (hexBytes 16 0x00112233445566778899aabbccddeeff))))) =
      some (hexBytes 16 0xd46de82295d6948e4e0412ae345a5243) := by decide +kernel

/-- Section 4 line 8: IndexError wins over NoKey. -/
theorem test_addrk_index_before_key :
    answerOf (step (asked 0x160B0000#32 [] State.reset)) = some ⟨0x05#8, []⟩ := by decide +kernel

/-- Section 3.2: ADDRKI needs no key. -/
theorem test_addrki :
    after (fun t => drain t.S) (step (asked 0x17000000#32 (hexBytes 16 0xd0c9e1b614ee3f63f9250c0ca889c8a6)
        (holding (hexBytes 16 0xd0c9e1b614ee3f63f9250c0ca889c8a6)))) =
      some (hexBytes 16 0x00000000000000000000000000000000) := by decide +kernel

/-- Section 3.2: 15 bytes are LengthError. -/
theorem test_addrki_length :
    answerOf (step (asked 0x17000000#32 (hexBytes 15 0xffffffffffffffffffffffffffffff) State.reset)) =
      some ⟨0x03#8, []⟩ := by decide +kernel

/-- Section 5 KS1: round key 10 after SETKEY of `K1`. -/
theorem test_setkey :
    after (fun t => (t.KEYV, drain t.RK[10])) (step (asked 0x20000000#32 key1 State.reset)) =
      some (true, hexBytes 16 0xd0c9e1b614ee3f63f9250c0ca889c8a6) := by decide +kernel

/-- Section 3.3: 15 bytes are InvalidKeyLength, not LengthError. -/
theorem test_setkey_length :
    answerOf (step (asked 0x20000000#32 (key1.take 15) State.reset)) = some ⟨0x04#8, []⟩ := by decide +kernel

/-- Section 5 KS1. -/
theorem test_getrk :
    answerOf (step (asked 0x21010000#32 [] (keyed key1 State.reset))) =
      some ⟨0x00#8, hexBytes 16 0xa088232afa54a36cfe2c397617b13905⟩ := by decide +kernel

/-- Section 3.3. -/
theorem test_getrk_noKey :
    answerOf (step (asked 0x21000000#32 [] State.reset)) = some ⟨0x06#8, []⟩ := by decide +kernel

/-- Section 3.3: CLRKEY clears `KEYV` and leaves `FAULTS`. -/
theorem test_clrkey :
    after (fun t => (t.KEYV, t.FAULTS)) (step (asked 0x22000000#32 [] { keyed key1 State.reset with FAULTS := 0x70#8 })) =
      some (false, 0x70#8) := by decide +kernel

/-- Section 3.3: CLRKEY without a key is legal and changes nothing (R115). -/
theorem test_clrkey_noKey :
    after (fun t => (t.KEYV, t.RK)) (step (asked 0x22000000#32 [] State.reset)) = some (false, State.reset.RK) := by
  decide +kernel

/-- Section 3.4: 57 * 83 = c1. -/
theorem test_gmul :
    answerOf (step (asked 0x30578300#32 [] State.reset)) = some ⟨0x00#8, [0xC1#8]⟩ := by decide +kernel

/-- Section 3.4: ff * ff = 13. -/
theorem test_gmul_top :
    answerOf (step (asked 0x30FFFF00#32 [] State.reset)) = some ⟨0x00#8, [0x13#8]⟩ := by decide +kernel

/-- Section 3.4: the high bit gives the reduction. -/
theorem test_xtime :
    answerOf (step (asked 0x31800000#32 [] State.reset)) = some ⟨0x00#8, [0x1B#8]⟩ := by decide +kernel

/-- Section 3.4: no reduction below 80. -/
theorem test_xtime_below :
    answerOf (step (asked 0x317F0000#32 [] State.reset)) = some ⟨0x00#8, [0xFE#8]⟩ := by decide +kernel

/-- V1 at the port. -/
theorem test_encblk :
    after (fun t => drain t.S) (step (asked 0x40000000#32 [] (keyed key1 (holding plain1)))) =
      some cipher1 := by decide +kernel

/-- Section 3.5. -/
theorem test_encblk_noKey :
    answerOf (step (asked 0x40000000#32 [] State.reset)) = some ⟨0x06#8, []⟩ := by decide +kernel

/-- V1 back. -/
theorem test_decblk :
    after (fun t => drain t.S) (step (asked 0x41000000#32 [] (keyed key1 (holding cipher1)))) =
      some plain1 := by decide +kernel

/-- Section 3.5. -/
theorem test_decblk_noKey :
    answerOf (step (asked 0x41000000#32 [] State.reset)) = some ⟨0x06#8, []⟩ := by decide +kernel

/-- M3: `hello world` under `K2`. -/
theorem test_encrypt :
    answerOf (step (asked 0x50000000#32 (text "hello world") (keyed key2 State.reset))) =
      some ⟨0x00#8, text3⟩ := by decide +kernel

/-- M1: the empty message gives the empty text. -/
theorem test_encrypt_empty :
    answerOf (step (asked 0x50000000#32 [] (keyed key2 State.reset))) = some ⟨0x00#8, []⟩ := by decide +kernel

/-- M14: the padding is returned too. -/
theorem test_decrypt :
    answerOf (step (asked 0x51000000#32 text3 (keyed key2 State.reset))) =
      some ⟨0x00#8, hexBytes 16 0x68656c6c6f20776f726c640000000000⟩ := by decide +kernel

/-- M20: decoded length 17 is DecodeError. -/
theorem test_decrypt_malformed :
    answerOf (step (asked 0x51000000#32 text17 (keyed key2 State.reset))) = some ⟨0x07#8, []⟩ := by decide +kernel

/-- B5: four bytes end in two pad characters. -/
theorem test_b64enc :
    answerOf (step (asked 0x60000000#32 (text "foob") State.reset)) = some ⟨0x00#8, text "Zm9vYg=="⟩ := by decide +kernel

/-- B18. -/
theorem test_b64enc_one_pad :
    answerOf (step (asked 0x60000000#32 [0xFB#8, 0xF0#8] State.reset)) = some ⟨0x00#8, text "+/A="⟩ := by decide +kernel

/-- D15: the scan stops at the line feed. -/
theorem test_b64dec :
    answerOf (step (asked 0x61000000#32 (hexBytes 9 0x5a6d39760a5a6d3976) State.reset)) =
      some ⟨0x00#8, text "foo"⟩ := by decide +kernel

/-- D8: a complete group and one character more. -/
theorem test_b64dec_short :
    answerOf (step (asked 0x61000000#32 (text "Zm9vZ") State.reset)) = some ⟨0x00#8, text "foo"⟩ := by decide +kernel

/-- Section 4 line 17. -/
theorem test_rdstat :
    answerOf (step (asked 0x70000000#32 [] { keyed key2 State.reset with FAULTS := 0xFE#8 })) = some ⟨0x00#8, [0x01#8,
        0xFE#8]⟩ := by decide +kernel

/-- R193: a payload byte is LengthError. -/
theorem test_rdstat_length :
    answerOf (step (asked 0x70000000#32 [0x00#8] State.reset)) = some ⟨0x03#8, []⟩ := by decide +kernel

/-! ## The order of the faults: section 4 of spec/95_test_vectors.md, `MAX_PAYLOAD = 64` -/

/-- The reset state with `MAX_PAYLOAD = 64`. -/
def limited : State := { State.reset with maxPayload := .atLeast16 48 }

/-- `n` zero bytes. -/
def zeros (n : Nat) : Bytes := List.replicate n 0x00#8

/-- Line 3: IllegalCommand wins over Overrun, and bit 1 of `FAULTS` records it. -/
theorem test_illegal_before_overrun :
    after (fun t => (t.FAULTS, t.responses)) (step (asked 0x05000000#32 (zeros 65) limited)) =
      some (0x02#8, [⟨0x01#8, []⟩]) := by decide +kernel

/-- Line 5: Overrun wins over InvalidKeyLength. -/
theorem test_overrun_before_length :
    after (fun t => (t.FAULTS, t.responses)) (step (asked 0x20000000#32 (zeros 65) limited)) =
      some (0x04#8, [⟨0x02#8, []⟩]) := by decide +kernel

/-- Line 6: 64 bytes are at the limit. -/
theorem test_at_limit : answerOf (step (asked 0x20000000#32 (zeros 64) limited)) = some ⟨0x04#8, []⟩ := by decide +kernel

/-- Line 7: LengthError wins over IndexError. -/
theorem test_length_before_index :
    answerOf (step (asked 0x01090900#32 (zeros 1) limited)) = some ⟨0x03#8, []⟩ := by decide +kernel

/-- Line 10: NoKey wins over DecodeError. -/
theorem test_noKey_before_decode : answerOf (step (asked 0x51000000#32 text17 limited)) = some ⟨0x06#8, []⟩ := by
  decide +kernel

/-! ## Steps that run no command, and the placing of a word -/

theorem test_hold : after id (step State.reset) = some State.reset := by decide +kernel

/-- R220: the reset action clears the flag and the mask and answers nothing. -/
theorem test_reset_action :
    after (fun t => (t.KEYV, t.FAULTS, t.responses, t.pending))
        (step { keyed key1 State.reset with FAULTS := 0xFE#8, pending := [.reset] }) =
      some (false, 0x00#8, [], []) := by decide +kernel

theorem test_withFetchWord :
    answerOf (step (State.reset.withFetchWord 32 0x70000000)) = some ⟨0x00#8, [0x00#8, 0x00#8]⟩ := by decide +kernel

/-! ## Witnesses: a state and operands that meet the hypotheses of each statement, at the ends of their ranges -/

/-- A payload over the limit of 64. -/
def overrunning : State := { limited with input := zeros 65 }

theorem witness_overruns : Overruns overrunning := ⟨48, rfl, by decide⟩

/-- A payload of exactly the limit. -/
def longest : State := { limited with input := zeros 64 }

theorem witness_not_overruns : ¬ Overruns longest := by
  simp [Overruns, longest, limited, zeros]

/-- The second clause of ChecksPayload for commands without payload and with a Block. -/
theorem witness_wrong_length :
    (¬ Overruns longest ∧ longest.input.length ≠ 0 ∧ longest.input.length ≠ 16) ∧
    (¬ Overruns State.reset ∧ State.reset.input.length ≠ 16) :=
  ⟨⟨witness_not_overruns, by decide, by decide⟩, not_overruns_of_le (by decide), by decide⟩

theorem witness_EncodeOfDecode : decode 0x020302A5#32 = .ok (.set 3 2 165) := by decide

theorem witness_WordSelectsRow :
    (0x01#8, 0xFF0000FF#32) ∈ opcodeTable ∧ MatchesRow 0x01FFFF00#32 (0x01#8, 0xFF0000FF#32) ∧
    ¬ MatchesRow 0x01000001#32 (0x01#8, 0xFF0000FF#32) := by
  unfold MatchesRow; decide

theorem witness_IllegalWordRaises :
    (asked 0x03010000#32 seq16 State.reset).pending = [.command 0x03010000#32 seq16] ∧
    ∀ row ∈ opcodeTable, ¬ MatchesRow 0x03010000#32 row := by
  simp [asked, opcodeTable, MatchesRow]

theorem witness_StepRunsDecodedCommand :
    (asked 0x03000000#32 seq16 State.reset).pending = [.command 0x03000000#32 seq16] ∧ decode 0x03000000#32 = .ok .ldblk := by
  decide

theorem witness_HoldsBetweenActions : State.reset.pending = [] := rfl

theorem witness_ResetActionClears :
    ({ keyed key1 State.reset with pending := [.reset] } : State).pending = [.reset] := rfl

theorem witness_ResetStateValues : IsReset (holding seq16) ∧ (holding seq16).input = [] := ⟨⟨rfl, rfl⟩, rfl⟩

/-- GET and SET: the index clauses just above the range, on the row and on the column, and the last cell. -/
theorem witness_cell_clauses :
    (holding seq16).input = [] ∧ 3 < (4#8).toNat ∧ (3#8).toNat = (3 : Fin 4).val ∧ (0#8).toNat = (0 : Fin 4).val := by decide

theorem witness_LoadAndStoreBlock :
    ({ State.reset with input := seq16 } : State).input.length = 16 ∧ State.reset.input = [] := by decide

theorem witness_TransformsReplaceS :
    ((.mixcolumns, 0x14000000#32, mixColumns) : Instr × CommandWord × (Block → Block)) ∈
      [(.subbytes, 0x10000000#32, subBytes), (.invsubbytes, 0x11000000#32, invSubBytes),
        (.shiftrows, 0x12000000#32, shiftRows), (.invshiftrows, 0x13000000#32, invShiftRows),
        (.mixcolumns, 0x14000000#32, mixColumns), (.invmixcolumns, 0x15000000#32, invMixColumns)] ∧
    (holding seq16).input = [] := ⟨by simp, rfl⟩

/-- ADDRK and GETRK: round-key number 11 without a key, 10 without one, 10 with one. -/
theorem witness_round_key_clauses :
    State.reset.input = [] ∧ 10 < (11#8).toNat ∧ (10#8).toNat ≤ 10 ∧ State.reset.KEYV = false ∧
    (keyed key1 State.reset).input = [] ∧ (10#8).toNat = (10 : Fin 11).val ∧ (keyed key1 State.reset).KEYV = true := by decide

/-- ADDRKI and SETKEY: a payload of 16 bytes. -/
theorem witness_block_payload : ({ State.reset with input := key1 } : State).input.length = 16 := by decide

/-- CLRKEY with a key and without one; ENCBLK and DECBLK likewise. -/
theorem witness_key_clauses :
    (keyed key1 State.reset).input = [] ∧ (keyed key1 State.reset).KEYV = true ∧
    State.reset.input = [] ∧ State.reset.KEYV = false := by decide

/-- GMUL, XTIME and RDSTAT: an empty payload, and a reserved bit that is 0. -/
theorem witness_no_payload : State.reset.input = [] ∧ FaultsReserved { State.reset with FAULTS := 0xFE#8 } := by
  unfold FaultsReserved; decide

/-- ENCRYPT, B64ENC and B64DEC: at the payload limit, without a key and with one. -/
theorem witness_EncryptAnswersText :
    (¬ Overruns longest ∧ longest.KEYV = false) ∧
    (¬ Overruns (keyed key2 longest) ∧ (keyed key2 longest).KEYV = true) :=
  ⟨⟨witness_not_overruns, rfl⟩, witness_not_overruns, rfl⟩

/-- DECRYPT: a decoded length of 17, and one of 16. -/
theorem witness_DecryptAnswersBytes :
    (¬ Overruns { keyed key2 State.reset with input := text17 } ∧ (b64decode text17).length % 16 ≠ 0) ∧
    (¬ Overruns { keyed key2 State.reset with input := text3 } ∧ (b64decode text3).length % 16 = 0) := by
  simp only [Overruns, keyed, State.reset]
  exact ⟨⟨by simp, by decide⟩, by simp, by decide⟩

theorem witness_Base64Commands : ¬ Overruns { State.reset with input := text3 } := by simp [Overruns, State.reset]

/-- Each code is reported by some command in some state, and some command faults in none of them. -/
theorem witness_SmallestFaultReported :
    Reports .b64enc overrunning 2 ∧ Reports (.get 4 0) longest 3 ∧ Reports .setkey longest 4 ∧
    Reports (.addrk 11) State.reset 5 ∧ Reports .decrypt { State.reset with input := text17 } 6 ∧
    Reports .decrypt { keyed key2 State.reset with input := text17 } 7 ∧
    ∀ n, ¬ FaultApplies (.gmul 255 255) State.reset n := by
  have h0 := witness_not_overruns
  have h1 : ∀ p, ¬ Overruns { State.reset with input := p } := by simp [Overruns, State.reset]
  have h2 : ∀ p, ¬ Overruns { keyed key2 State.reset with input := p } := by simp [Overruns, keyed, State.reset]
  have h3 : ¬ Overruns State.reset := h1 []
  have h4 : (b64decode text17).length % 16 = 1 := by decide
  have h5 : longest.input.length = 64 := by decide
  refine ⟨⟨.inl ⟨rfl, witness_overruns⟩, ?_⟩, ⟨.inr (.inl ⟨rfl, by simp, 0, rfl, by simp [h5]⟩), ?_⟩,
    ⟨.inr (.inr (.inl ⟨rfl, rfl, by simp [h5]⟩)), ?_⟩, ⟨.inr (.inr (.inr (.inl ⟨rfl, by decide⟩))), ?_⟩,
    ⟨.inr (.inr (.inr (.inr (.inl ⟨rfl, rfl, rfl⟩)))), ?_⟩, ⟨.inr (.inr (.inr (.inr (.inr ⟨rfl, rfl, by simp [h4]⟩)))), ?_⟩, ?_⟩
  all_goals
    intro m h
    rcases h with ⟨h, h'⟩ | ⟨h, h'⟩ | ⟨h, h'⟩ | ⟨h, h'⟩ | ⟨h, h'⟩ | ⟨h, h'⟩ <;>
      first
      | omega
      | exact absurd h' h0
      | exact absurd h' (h1 _)
      | exact absurd h' (h2 _)
      | exact absurd h' h3
      | simp [requiredLength, Instr.wellFormed, needsKey, keyed, State.reset] at h'

theorem witness_SmallestFaultReported_illegal :
    (asked 0xFFFFFFFF#32 [] State.reset).pending = [.command 0xFFFFFFFF#32 []] ∧ ∀ i, decode 0xFFFFFFFF#32 ≠ .ok i := by
  refine ⟨rfl, fun i h => ?_⟩
  rw [show decode 0xFFFFFFFF#32 = .error (.unlistedOpcode 0xFF) by decide] at h
  cases h

theorem witness_FaultEntryChangesOnlyFaults :
    exec (.get 4 0) State.reset = .next (faulted State.reset 5) ∧
    (faulted State.reset 5).responses = State.reset.responses ++ [⟨0x05#8, []⟩] ∧ (0x05#8 : Byte) ≠ 0x00#8 :=
  ⟨rfl, rfl, by decide⟩

/-- The first and the last code; and a code recorded before. -/
theorem witness_FaultsRecordsCodes :
    (asked 0x00000000#32 [] State.reset).pending = [.command 0x00000000#32 []] ∧ 1 ≤ 1 ∧ 7 ≤ 7 ∧
    ({ State.reset with FAULTS := 0x80#8 } : State).FAULTS.getLsbD 7 = true := by decide

theorem witness_KeyInvariantKept :
    KeyInvariant (asked 0x10000000#32 [] (keyed key1 State.reset)) ∧ (keyed key1 State.reset).KEYV = true ∧
    ∃ t, step (asked 0x10000000#32 [] (keyed key1 State.reset)) = .next t :=
  ⟨fun _ => ⟨_, rfl⟩, rfl, _, rfl⟩

theorem witness_FaultsReservedKept :
    FaultsReserved (asked 0x01040000#32 [] State.reset) ∧ ∃ t, step (asked 0x01040000#32 [] State.reset) = .next t :=
  ⟨rfl, _, rfl⟩

theorem witness_CommandsWriteOnlyTheirOwn :
    exec .rdstat State.reset = .next (completed State.reset [0x00#8, 0x00#8]) ∧ writesS .rdstat = false ∧
    Instr.rdstat ≠ .setkey ∧ Instr.rdstat ≠ .clrkey := ⟨rfl, rfl, by decide, by decide⟩

theorem witness_CommandsThatIgnoreS : ignoresS .encrypt = true ∧ ignoresS .rdstat = true := by decide

theorem witness_RoundKeysUnobservableWithoutKey :
    SameButRK State.reset { State.reset with RK := expandKey (splatBlock 0xFF#8) } ∧ State.reset.KEYV = false :=
  ⟨⟨_, rfl⟩, rfl⟩

theorem witness_FieldLaws : (0x53#8 : Byte) ≠ 0 ∧ gmul 0x53#8 0xCA#8 = 1 := by decide +kernel

theorem witness_KeyExpansionRecurrence : 0 + 1 < 11 ∧ 9 + 1 < 11 ∧ (3 : Fin 4).val = (2 : Fin 4).val + 1 := by decide

theorem witness_CipherIsTransformSequence :
    (keyed key1 State.reset).input = [] ∧ (keyed key1 State.reset).KEYV = true := ⟨rfl, rfl⟩

/-- Fifteen and sixteen bytes; a transpose of sixteen. -/
theorem witness_payload_lengths : (seq16.take 15).length ≠ 16 ∧ seq16.length = 16 := by decide

theorem witness_BlocksIndependent : (zeros 32).length % 16 = 0 ∧ (zeros 0).length % 16 = 0 := by decide

/-- M6 and M7: one zero byte and sixteen. -/
theorem witness_PaddingAmbiguity : ((zeros 1).length + 15 + 15) / 16 = ((zeros 1).length + 15) / 16 := by decide

theorem witness_MessageLengths : ∃ out, decryptText text3 (keyed key2 State.reset).RK = some out :=
  Option.isSome_iff_exists.1 (by decide +kernel)

theorem witness_MessageRoundTrip :
    (keyed key2 State.reset).KEYV = true ∧ ¬ Overruns (keyed key2 State.reset) ∧
    ¬ Overruns { keyed key2 State.reset with input := text3 } := by
  simp [Overruns, keyed, State.reset]

theorem witness_DecoderStopsForGood : charValue 0x3D#8 = none ∧ charValue 0x0A#8 = none := by decide

theorem witness_AlphabetTable : charValue 0x41#8 = some 0#6 ∧ charValue 0x2F#8 = some 63#6 := by decide

end Sys2Proof.Tests
end

section
/-! The equation of `step` for a pending command whose word decodes, and the statement of spec/00_scope.md about it. -/

namespace Sys2Proof.Machine

/-- R65: the decoded command runs in the state that issuing it leaves. -/
theorem step_of_decode_ok {s : State} {cw : CommandWord} {p : Bytes} {rest : List HostAction} {i : Instr}
    (hpending : s.pending = .command cw p :: rest) (hdecode : decode cw = .ok i) :
    step s = exec i (issue p rest s) := by
  simp only [step, hpending, hdecode]

/-- Settles O6, by the equation of `step` at a decoded command: `issue` is the record update the statement writes out. -/
theorem stepRunsDecodedCommand : Obligations.StepRunsDecodedCommand :=
  fun _ _ _ _ _ hpending hdecode => step_of_decode_ok hpending hdecode

end Sys2Proof.Machine
end

section
/-! The fault codes and the fault mask, and what the end of a command leaves in each field of the state
(spec/10_state.md R25, R33; spec/60_exceptions.md R190, R199). -/

namespace Sys2Proof.Machine

open Sys2Proof Sys2Proof.Safety

/-! ## The fault codes and the mask -/

theorem codeNumber_pos (f : FaultCode) : 1 ≤ codeNumber f := by cases f <;> decide

theorem codeNumber_le_seven (f : FaultCode) : codeNumber f ≤ 7 := by cases f <;> decide

@[simp] theorem codeByte_toNat (f : FaultCode) : (codeByte f).toNat = codeNumber f := by cases f <;> rfl

@[simp] theorem okByte_toNat : okByte.toNat = 0 := rfl

/-- A fault sets the bit of its code and no other. -/
theorem getLsbD_recordFault (f : FaultCode) (mask : Byte) (n : Nat) :
    (recordFault f mask).getLsbD n = true ↔ mask.getLsbD n = true ∨ codeNumber f = n := by
  have hbit : faultBit f = BitVec.twoPow 8 (codeNumber f) := rfl
  have hlt : codeNumber f < 8 := Nat.lt_succ_of_le (codeNumber_le_seven f)
  simp [recordFault, hbit, hlt]

/-! ## What every write and every end of a command leaves alone -/

theorem Effect.FAULTS_eq {s t : State} (h : Effect s t) : t.FAULTS = s.FAULTS := by cases h <;> simp

theorem Effect.responses_eq {s t : State} (h : Effect s t) : t.responses = s.responses := by cases h <;> simp

theorem Effect.pending_eq {s t : State} (h : Effect s t) : t.pending = s.pending := by cases h <;> simp

theorem Effect.maxPayload_eq {s t : State} (h : Effect s t) : t.maxPayload = s.maxPayload := by cases h <;> simp

theorem Ends.pending_eq {s u : State} (h : Ends s u) : u.pending = s.pending := by
  cases h with
  | answer t out ht => exact ht.pending_eq
  | fault f => rfl

theorem Ends.maxPayload_eq {s u : State} (h : Ends s u) : u.maxPayload = s.maxPayload := by
  cases h with
  | answer t out ht => exact ht.maxPayload_eq
  | fault f => rfl

theorem Ends.input_eq {s u : State} (h : Ends s u) : u.input = [] := by cases h <;> rfl

/-- R11, R25: a command's end gives one response, and the mask records that response's code. -/
theorem Ends.exists_response {s u : State} (h : Ends s u) :
    ∃ (st : Byte) (out : Bytes), u.responses = s.responses ++ [⟨st, out⟩] ∧ st.toNat ≤ 7 ∧
      ∀ n, 1 ≤ n → (u.FAULTS.getLsbD n = true ↔ s.FAULTS.getLsbD n = true ∨ st.toNat = n) := by
  cases h with
  | answer t out ht =>
    refine ⟨okByte, out, by simp [ht.responses_eq], by simp, fun n hn => ?_⟩
    have hne : 0 ≠ n := by omega
    simp [ht.FAULTS_eq, hne]
  | fault f =>
    exact ⟨codeByte f, [], rfl, by simp [codeNumber_le_seven], fun n _ => by simp [getLsbD_recordFault]⟩

/-! ## The equations of `step` -/

theorem step_of_pending_nil {s : State} (hpending : s.pending = []) : step s = .next (hold s) := by
  simp only [step, hpending]

theorem step_of_pending_reset {s : State} {rest : List HostAction} (hpending : s.pending = .reset :: rest) :
    step s = .next (takeReset rest s) := by
  simp only [step, hpending]

theorem step_of_decode_error {s : State} {cw : CommandWord} {p : Bytes} {rest : List HostAction} {e : Illegal}
    (hpending : s.pending = .command cw p :: rest) (hdecode : decode cw = .error e) :
    step s = .next (raise .illegalCommand (issue p rest s)) := by
  simp only [step, hpending, hdecode]

/-- A step at a pending command, legal or not, is one of the ends of a command. -/
theorem step_command_ends {s : State} {cw : CommandWord} {p : Bytes} {rest : List HostAction}
    (hpending : s.pending = .command cw p :: rest) : ∃ t, step s = .next t ∧ Ends (issue p rest s) t := by
  match hdecode : decode cw with
  | .ok i =>
    rw [step_of_decode_ok hpending hdecode]
    exact exec_ends i _
  | .error e => exact ⟨_, step_of_decode_error hpending hdecode, .fault .illegalCommand⟩

/-- Settles O26: a step at a pending command is an end of a command, and each end gives one response whose code the mask
records. -/
theorem faultsRecordsCodes : Obligations.FaultsRecordsCodes := by
  intro s cw p rest hpending
  obtain ⟨t, hstep, hends⟩ := step_command_ends hpending
  obtain ⟨st, out, hresponses, hcode, hmask⟩ := hends.exists_response
  exact ⟨t, st, out, hstep, hresponses, hcode, hends.pending_eq, hends.input_eq, fun n hn _ => hmask n hn⟩

end Sys2Proof.Machine
end

section
/-! The two invariants of the state: the key schedule and the reserved bit (spec/10_state.md R25, R26, R31, R32). -/

namespace Sys2Proof.Safety

open Sys2Proof Sys2Proof.Machine

/-! ## The key schedule is the expansion of one key (R32) -/

theorem keyInvariant_of_noKey {s : State} (h : s.KEYV = false) : KeyInvariant s := by
  intro hkey
  rw [h] at hkey
  cases hkey

/-- SETKEY writes the expansion of one key, the end of the Cipher leaves no key valid, no other write touches the key. -/
theorem keyInvariant_of_effect {s t : State} (hs : KeyInvariant s) (h : Effect s t) : KeyInvariant t := by
  cases h with
  | none => exact hs
  | block B => exact hs
  | key K => exact fun _ => ⟨K, rfl⟩
  | endKey => exact keyInvariant_of_noKey (endCipher_KEYV s)

theorem keyInvariant_of_ends {s u : State} (hs : KeyInvariant s) (h : Ends s u) : KeyInvariant u := by
  cases h with
  | answer t out ht => exact (keyInvariant_of_effect hs ht : KeyInvariant t)
  | fault f => exact hs

/-- Settles O28: a reset leaves no key valid, issuing a command leaves the key alone, and every end of a command keeps
the invariant. -/
theorem keyInvariantKept : Obligations.KeyInvariantKept :=
  step_keeps KeyInvariant (fun s rest _ => keyInvariant_of_noKey (takeReset_KEYV rest s)) (fun _ _ _ hs => hs)
    (fun _ _ hs hends => keyInvariant_of_ends hs hends)

/-! ## The reserved bit of the mask (R25, R26) -/

/-- No code is 0, so no fault sets bit 0. -/
theorem faultsReserved_raise {s : State} (f : FaultCode) (hs : FaultsReserved s) : FaultsReserved (raise f s) := by
  have hcode : codeNumber f ≠ 0 := Nat.one_le_iff_ne_zero.mp (codeNumber_pos f)
  simp only [FaultsReserved, ← Bool.not_eq_true, raise_FAULTS, getLsbD_recordFault] at hs ⊢
  exact not_or.mpr ⟨hs, hcode⟩

theorem faultsReserved_of_ends {s u : State} (hs : FaultsReserved s) (h : Ends s u) : FaultsReserved u := by
  cases h with
  | answer t out ht => simpa [FaultsReserved, ht.FAULTS_eq] using hs
  | fault f => exact faultsReserved_raise f hs

theorem faultsReserved_of_zero {s : State} (h : s.FAULTS = 0x00#8) : FaultsReserved s := by
  simp [FaultsReserved, h]

/-- Settles O29: a reset clears the mask, issuing a command leaves it alone, and every end of a command keeps bit 0. -/
theorem faultsReservedKept : Obligations.FaultsReservedKept :=
  step_keeps FaultsReserved (fun s rest _ => faultsReserved_of_zero (takeReset_FAULTS rest s)) (fun _ _ _ hs => hs)
    (fun _ _ hs hends => faultsReserved_of_ends hs hends)

/-! ## Reset states (R31) -/

/-- Settles O30: a reset state has no key valid and a mask of zero. -/
theorem invariantsHoldAtReset : Obligations.InvariantsHoldAtReset :=
  ⟨⟨rfl, rfl⟩, fun _ ⟨hkey, hfaults⟩ => ⟨keyInvariant_of_noKey hkey, faultsReserved_of_zero hfaults⟩⟩

/-- R180: RDSTAT without a payload returns the two views. -/
theorem exec_rdstat_of_noPayload {s : State} (h : s.input = []) :
    exec .rdstat s = .next (completed s [statusView s, faultsView s]) := by
  have hoverrun : checkOverrun s = .ok () := checkOverrun_of_not (not_overruns_of_le (by simp [h]))
  have hlength : checkNoPayload s = .ok () := checkNoPayload_of_eq (by simp [h])
  simp [exec, execRdstat, hoverrun, hlength, finish_ok]

/-- Settles O9: in a reset state both views read as zero. -/
theorem resetStateValues : Obligations.ResetStateValues := by
  refine ⟨rfl, rfl, rfl, fun s ⟨hkey, hfaults⟩ hinput => ?_⟩
  have hstatus : statusView s = 0x00#8 := by simp [statusView, hkey]
  have hmask : faultsView s = 0x00#8 := by simp [faultsView, hfaults]
  rw [exec_rdstat_of_noPayload hinput, hstatus, hmask]

end Sys2Proof.Safety
end

section
/-! What a command writes, command by command, and what it reads of the state (spec/10_state.md R24, R29, R33). -/

namespace Sys2Proof.Machine

open Sys2Proof Sys2Proof.Safety

/-! ## The writes -/

/-- The writes of each command (R33): `Effect` with the commands that make each of them. -/
inductive CommandEffect (s : State) : Instr → State → Prop where
  | none (i : Instr) : CommandEffect s i s
  | block (i : Instr) (B : Block) (h : writesS i = true) : CommandEffect s i (writeS B s)
  | key (K : Block) : CommandEffect s .setkey (writeKey (expandKey K) s)
  | endKey : CommandEffect s .clrkey (endCipher s)

theorem CommandEffect.S_eq {s t : State} {i : Instr} (h : CommandEffect s i t) (hi : writesS i = false) :
    t.S = s.S := by
  cases h with
  | none => rfl
  | block i B h => simp [hi] at h
  | key K => rfl
  | endKey => exact endCipher_S s

theorem CommandEffect.key_eq {s t : State} {i : Instr} (h : CommandEffect s i t) (hset : i ≠ .setkey)
    (hclr : i ≠ .clrkey) : t.RK = s.RK ∧ t.KEYV = s.KEYV ∧ t.freeCount = s.freeCount := by
  cases h with
  | none => exact ⟨rfl, rfl, rfl⟩
  | block i B h => exact ⟨rfl, rfl, rfl⟩
  | key K => exact absurd rfl hset
  | endKey => exact absurd rfl hclr

/-- The inversion of `finish`: an answer after a write that `P` allows, or a fault. -/
theorem finish_inv {P : State → Prop} {s u : State} {r : Except FaultCode (State × Bytes)}
    (hr : ∀ t out, r = .ok (t, out) → P t) (h : finish s r = .next u) :
    (∃ f, u = raise f s) ∨ ∃ t out, P t ∧ u = respond out t := by
  rcases finish_next s r with ⟨t, out, hrt, hf⟩ | ⟨f, _, hf⟩ <;> rw [hf] at h <;> cases h
  · exact .inr ⟨t, out, hr t out hrt, rfl⟩
  · exact .inl ⟨f, rfl⟩

/-- A command that answers made one of its own writes, or faulted. -/
theorem exec_commandEffect {i : Instr} {s u : State} (h : exec i s = .next u) :
    (∃ f, u = raise f s) ∨ ∃ t out, CommandEffect s i t ∧ u = respond out t := by
  cases i <;> refine finish_inv (fun t out hr => ?_) h <;>
    (repeat (obtain ⟨_, _, hr⟩ := bind_ok hr)) <;> (cases pure_ok hr) <;> constructor <;> rfl

/-- Settles O31: a fault writes no register, and a command's own write leaves the registers of the other commands. -/
theorem commandsWriteOnlyTheirOwn : Obligations.CommandsWriteOnlyTheirOwn := by
  intro i s t h
  have hends : Ends s t := by
    obtain ⟨u, hu, hends⟩ := exec_ends i s
    rw [hu] at h
    cases h
    exact hends
  refine ⟨fun hi => ?_, fun hset hclr => ?_, hends.pending_eq, hends.maxPayload_eq⟩ <;>
    obtain ⟨f, rfl⟩ | ⟨t, out, ht, rfl⟩ := exec_commandEffect h
  · rfl
  · exact ht.S_eq hi
  · exact ⟨rfl, rfl, rfl⟩
  · exact ht.key_eq hset hclr

/-! ## The reads -/

/-- The two states agree on all that the command `i` reads (R24, R33): the payload and its limit, `KEYV`, `FAULTS`, the
round keys while they are valid, and `S` when `i` uses it. -/
structure SameReads (i : Instr) (s s' : State) : Prop where
  input : s'.input = s.input
  maxPayload : s'.maxPayload = s.maxPayload
  KEYV : s'.KEYV = s.KEYV
  FAULTS : s'.FAULTS = s.FAULTS
  RK : s.KEYV = true → s'.RK = s.RK
  S : ignoresS i = false → s'.S = s.S

namespace SameReads

variable {i : Instr} {s s' : State}

theorem checkOverrun_eq (h : SameReads i s s') : checkOverrun s' = checkOverrun s := by
  simp only [checkOverrun, h.maxPayload, h.input]

theorem checkNoPayload_eq (h : SameReads i s s') : checkNoPayload s' = checkNoPayload s := by
  simp only [checkNoPayload, h.input]

theorem payloadBlock_eq (h : SameReads i s s') (f : FaultCode) : payloadBlock f s' = payloadBlock f s := by
  simp only [payloadBlock, h.input]

theorem keySchedule_eq (h : SameReads i s s') : keySchedule s' = keySchedule s := by
  cases hkey : s.KEYV with
  | true => rw [keySchedule_of_key hkey, keySchedule_of_key (h.KEYV.trans hkey), h.RK hkey]
  | false => rw [keySchedule_of_noKey hkey, keySchedule_of_noKey (h.KEYV.trans hkey)]

theorem decryptedPayload_eq (h : SameReads i s s') (rk : Vector Block 11) :
    decryptedPayload rk s' = decryptedPayload rk s := by
  simp only [decryptedPayload, h.input]

theorem statusView_eq (h : SameReads i s s') : statusView s' = statusView s := by
  simp only [statusView, h.KEYV]

theorem faultsView_eq (h : SameReads i s s') : faultsView s' = faultsView s := by
  simp only [faultsView, h.FAULTS]

end SameReads

/-- One and the same write made in two states. -/
inductive SameEffect (s s' : State) : State → State → Prop where
  | none : SameEffect s s' s s'
  | block (B : Block) : SameEffect s s' (writeS B s) (writeS B s')
  | key (K : Block) : SameEffect s s' (writeKey (expandKey K) s) (writeKey (expandKey K) s')
  | endKey : SameEffect s s' (endCipher s) (endCipher s')

/-- One and the same answer given by the checks and the effect of a command in two states. -/
inductive SameResult (s s' : State) : (r r' : Except FaultCode (State × Bytes)) → Prop where
  | answer (t t' : State) (out : Bytes) (h : SameEffect s s' t t') : SameResult s s' (.ok (t, out)) (.ok (t', out))
  | fault (f : FaultCode) : SameResult s s' (.error f) (.error f)

/-- One and the same end of a command in two states: the same response after the same write, or the same fault. -/
inductive SameEnd (s s' : State) : State → State → Prop where
  | answer (t t' : State) (out : Bytes) (h : SameEffect s s' t t') : SameEnd s s' (respond out t) (respond out t')
  | fault (f : FaultCode) : SameEnd s s' (raise f s) (raise f s')

theorem SameResult.bind {α : Type} {s s' : State} {x : Except FaultCode α}
    {g g' : α → Except FaultCode (State × Bytes)} (h : ∀ a, SameResult s s' (g a) (g' a)) :
    SameResult s s' (x >>= g) (x >>= g') := by
  cases x with
  | error f => exact .fault f
  | ok a => exact h a

theorem SameResult.finish {s s' : State} {r r' : Except FaultCode (State × Bytes)} (h : SameResult s s' r r') :
    ∃ u u', finish s r = .next u ∧ finish s' r' = .next u' ∧ SameEnd s s' u u' := by
  cases h with
  | answer t t' out ht => exact ⟨_, _, rfl, rfl, .answer t t' out ht⟩
  | fault f => exact ⟨_, _, rfl, rfl, .fault f⟩

/-- R33, the reads: a command ends alike in two states that agree on what it reads. -/
theorem exec_sameEnd {i : Instr} {s s' : State} (h : SameReads i s s') :
    ∃ u u', exec i s = .next u ∧ exec i s' = .next u' ∧ SameEnd s s' u u' := by
  have hS := h.S
  cases i <;> simp only [ignoresS, forall_const, reduceCtorEq, false_implies] at hS
  all_goals
    refine SameResult.finish ?_
    simp only [h.checkOverrun_eq, h.checkNoPayload_eq, h.payloadBlock_eq, h.keySchedule_eq, h.decryptedPayload_eq,
      h.statusView_eq, h.faultsView_eq, h.input, *]
    repeat refine .bind fun _ => ?_
    exact .answer _ _ _ (by constructor)

end Sys2Proof.Machine
end

section
/-! The commands that do not use `S`, and the round keys that no run can observe (spec/10_state.md R24, R29, R33). -/

namespace Sys2Proof.Machine

open Sys2Proof Sys2Proof.Safety

/-! ## Another Block in `S` -/

theorem writesS_of_ignoresS {i : Instr} (h : ignoresS i = true) : writesS i = false := by
  cases i <;> simp_all [ignoresS, writesS]

theorem sameReads_writeS {i : Instr} (h : ignoresS i = true) (s : State) (B : Block) : SameReads i s (writeS B s) where
  input := rfl
  maxPayload := rfl
  KEYV := rfl
  FAULTS := rfl
  RK := fun _ => rfl
  S := fun hi => by simp [h] at hi

theorem endCipher_writeS (B : Block) (s : State) : endCipher (writeS B s) = writeS B (endCipher s) := by
  cases hkey : s.KEYV with
  | true => simp only [endCipher, writeS_KEYV, hkey, if_true]; rfl
  | false => rw [endCipher_of_noKey s hkey, endCipher_of_noKey (writeS B s) hkey]

/-- The same write in two states that differ in `S` alone leaves two states that differ in `S` alone. -/
theorem SameEffect.eq_writeS {s t t' : State} {B : Block} (h : SameEffect s (writeS B s) t t') : t' = writeS t'.S t := by
  cases h with
  | none => rfl
  | block B' => rfl
  | key K => rfl
  | endKey => rw [endCipher_writeS]; rfl

theorem SameEnd.eq_writeS {s u u' : State} {B : Block} (h : SameEnd s (writeS B s) u u') : u' = writeS u'.S u := by
  cases h with
  | answer t t' out ht => exact congrArg (respond out) ht.eq_writeS
  | fault f => rfl

/-- Settles O32: the command ends alike with either Block in `S`, and by the frame of its writes it leaves the Block
there. -/
theorem commandsThatIgnoreS : Obligations.CommandsThatIgnoreS := by
  intro i s B hi
  obtain ⟨u, u', hu, hu', hend⟩ := exec_sameEnd (sameReads_writeS hi s B)
  have hS : u'.S = B := (commandsWriteOnlyTheirOwn i (writeS B s) u' hu').1 (writesS_of_ignoresS hi)
  have heq : u' = writeS B u := hS ▸ hend.eq_writeS
  exact ⟨u, hu, hu'.trans (congrArg _ heq)⟩

/-! ## Another key schedule in `RK`, with no key valid -/

theorem sameButRK_pending {s s' : State} (h : SameButRK s s') : s'.pending = s.pending := by
  obtain ⟨rk, rfl⟩ := h; rfl

theorem sameButRK_issue {s s' : State} (h : SameButRK s s') (p : Bytes) (rest : List HostAction) :
    SameButRK (issue p rest s) (issue p rest s') := by
  obtain ⟨rk, rfl⟩ := h; exact ⟨rk, rfl⟩

theorem sameButRK_raise {s s' : State} (h : SameButRK s s') (f : FaultCode) : SameButRK (raise f s) (raise f s') := by
  obtain ⟨rk, rfl⟩ := h; exact ⟨rk, rfl⟩

theorem takeReset_of_sameButRK {s s' : State} (h : SameButRK s s') (rest : List HostAction) :
    takeReset rest s' = takeReset rest s := by
  obtain ⟨rk, rfl⟩ := h; rfl

/-- The relation of R24 that every step keeps: the states are equal, or no key is valid and they differ in `RK` alone. -/
def Indistinguishable (s s' : State) : Prop := s' = s ∨ (s.KEYV = false ∧ SameButRK s s')

theorem Indistinguishable.responses_eq {s s' : State} (h : Indistinguishable s s') : s.responses = s'.responses := by
  obtain rfl | ⟨_, rk, rfl⟩ := h <;> rfl

theorem Indistinguishable.respond {s s' : State} (h : Indistinguishable s s') (out : Bytes) :
    Indistinguishable (respond out s) (respond out s') := by
  obtain rfl | ⟨hkey, rk, rfl⟩ := h
  · exact .inl rfl
  · exact .inr ⟨hkey, rk, rfl⟩

theorem sameReads_of_noKey {i : Instr} {s s' : State} (hkey : s.KEYV = false) (h : SameButRK s s') :
    SameReads i s s' := by
  obtain ⟨rk, rfl⟩ := h
  exact ⟨rfl, rfl, rfl, rfl, fun hk => by simp [hkey] at hk, fun _ => rfl⟩

/-- SETKEY makes the two states equal; no other write makes a key valid or tells the two schedules apart. -/
theorem SameEffect.indistinguishable {s s' t t' : State} (hkey : s.KEYV = false) (hs : SameButRK s s')
    (h : SameEffect s s' t t') : Indistinguishable t t' := by
  obtain ⟨rk, rfl⟩ := hs
  cases h with
  | none => exact .inr ⟨hkey, rk, rfl⟩
  | block B => exact .inr ⟨hkey, rk, rfl⟩
  | key K => exact .inl rfl
  | endKey =>
    have hnoKey : endCipher { s with RK := rk } = { s with RK := rk } := endCipher_of_noKey _ hkey
    rw [hnoKey, endCipher_of_noKey s hkey]
    exact .inr ⟨hkey, rk, rfl⟩

theorem SameEnd.indistinguishable {s s' u u' : State} (hkey : s.KEYV = false) (hs : SameButRK s s')
    (h : SameEnd s s' u u') : Indistinguishable u u' := by
  cases h with
  | answer t t' out ht => exact (ht.indistinguishable hkey hs).respond out
  | fault f => exact .inr ⟨hkey, sameButRK_raise hs f⟩

theorem step_total (s : State) : ∃ t, step s = .next t := by
  rcases step_cases s with ⟨_, e⟩ | ⟨rest, _, e⟩ | ⟨cw, p, rest, x, _, _, e⟩ | ⟨cw, p, rest, i, _, _, e⟩
  · exact ⟨_, e⟩
  · exact ⟨_, e⟩
  · exact ⟨_, e⟩
  · obtain ⟨u, hu, _⟩ := exec_ends i (issue p rest s)
    exact ⟨u, e.trans hu⟩

/-- One step of two states that differ in `RK` alone, with no key valid: a reset makes them equal, and a command ends
alike in both. -/
theorem step_sameButRK {s s' : State} (hkey : s.KEYV = false) (hs : SameButRK s s') :
    ∃ t t', step s = .next t ∧ step s' = .next t' ∧ Indistinguishable t t' := by
  have hpending' : s'.pending = s.pending := sameButRK_pending hs
  match hpending : s.pending with
  | [] =>
    exact ⟨_, _, step_of_pending_nil hpending, step_of_pending_nil (hpending'.trans hpending), .inr ⟨hkey, hs⟩⟩
  | .reset :: rest =>
    exact ⟨_, _, step_of_pending_reset hpending, step_of_pending_reset (hpending'.trans hpending),
      .inl (takeReset_of_sameButRK hs rest)⟩
  | .command cw p :: rest =>
    have hnoKey : (issue p rest s).KEYV = false := hkey
    have hissue : SameButRK (issue p rest s) (issue p rest s') := sameButRK_issue hs p rest
    match hdecode : decode cw with
    | .error e =>
      exact ⟨_, _, step_of_decode_error hpending hdecode, step_of_decode_error (hpending'.trans hpending) hdecode,
        .inr ⟨hnoKey, sameButRK_raise hissue .illegalCommand⟩⟩
    | .ok i =>
      rw [step_of_decode_ok hpending hdecode, step_of_decode_ok (hpending'.trans hpending) hdecode]
      obtain ⟨u, u', hu, hu', hend⟩ := exec_sameEnd (sameReads_of_noKey (i := i) hnoKey hissue)
      exact ⟨u, u', hu, hu', hend.indistinguishable hnoKey hissue⟩

theorem step_indistinguishable {s s' : State} (h : Indistinguishable s s') :
    ∃ t t', step s = .next t ∧ step s' = .next t' ∧ Indistinguishable t t' := by
  obtain rfl | ⟨hkey, hs⟩ := h
  · obtain ⟨t, ht⟩ := step_total s'
    exact ⟨t, t, ht, ht, .inl rfl⟩
  · exact step_sameButRK hkey hs

theorem run_succ_of_step {s t : State} (h : step s = .next t) (k : Nat) :
    Host.Core.run Sys2Proof.core (k + 1) s = Host.Core.run Sys2Proof.core k t := by
  have hcore : Sys2Proof.core.step s = .next t := h
  simp only [Host.Core.run, hcore]

theorem run_indistinguishable (k : Nat) {s s' : State} (h : Indistinguishable s s') :
    ∃ t t', Host.Core.run Sys2Proof.core k s = .next t ∧ Host.Core.run Sys2Proof.core k s' = .next t' ∧
      Indistinguishable t t' := by
  induction k generalizing s s' with
  | zero => exact ⟨s, s', rfl, rfl, h⟩
  | succ k ih =>
    obtain ⟨u, u', hu, hu', hstep⟩ := step_indistinguishable h
    rw [run_succ_of_step hu, run_succ_of_step hu']
    exact ih hstep

/-- Settles O33: the two states are indistinguishable, every step keeps that, and indistinguishable states have given the
same responses. -/
theorem roundKeysUnobservableWithoutKey : Obligations.RoundKeysUnobservableWithoutKey := by
  intro k s s' hs hkey
  obtain ⟨t, t', ht, ht', h⟩ := run_indistinguishable k (.inr ⟨hkey, hs⟩)
  exact ⟨t, t', ht, ht', h.responses_eq⟩

end Sys2Proof.Machine
end

section
/-! The byte order between a sequence of 16 bytes and the grid (spec/20_memory.md R41, R42, R44). Every sequence of 16
bytes is the drain of a Block, so the laws about sequences are read off `fill_drain` and the cells. -/

namespace Sys2Proof.Machine

/-! ## Row-major order -/

@[simp] theorem fill_drain (B : Block) : fill (drain B) = some B := rfl

/-- R41, R42: a Block comes from the bytes it drains to. -/
theorem drain_of_fill {q : Bytes} {B : Block} (h : fill q = some B) : drain B = q := by
  unfold fill at h
  split at h <;> cases h
  rfl

theorem fill_eq_none {q : Bytes} (h : q.length ≠ 16) : fill q = none := by
  cases hfill : fill q with
  | none => rfl
  | some B => exact absurd (length_of_fill hfill) h

theorem exists_drain_eq {q : Bytes} (h : q.length = 16) : ∃ B : Block, drain B = q := by
  cases hfill : fill q with
  | none => exact absurd h (fill_none_of_length hfill)
  | some B => exact ⟨B, drain_of_fill hfill⟩

theorem getElem?_wordBytes (w : Word) (i : Fin 4) : (wordBytes w)[i.val]? = some (wordGet w i) := by
  fin_cases i <;> rfl

/-- R42: four bytes to a row, so that row `r` begins at byte `4 * r`. -/
theorem getElem?_drain (B : Block) (r c : Fin 4) : (drain B)[4 * r.val + c.val]? = some (cell B r c) := by
  have hrow : (drain B)[4 * r.val + c.val]? = (wordBytes (rowOf B r))[c.val]? := by
    fin_cases r <;> fin_cases c <;> rfl
  rw [hrow, getElem?_wordBytes, cell]

/-- Settles O46: 16 bytes are the drain of a Block, and `fill` gives that Block back. -/
theorem fillAndDrainRowMajor : Obligations.FillAndDrainRowMajor := by
  refine ⟨fun q => fill_eq_none, fun q hq => ?_, fun B => ⟨fill_drain B, drain_length B⟩⟩
  obtain ⟨B, rfl⟩ := exists_drain_eq hq
  exact ⟨B, fill_drain B, rfl, getElem?_drain B⟩

/-! ## Column-first order -/

@[simp] theorem cell_transpose (B : Block) (r c : Fin 4) : cell (transpose B) r c = cell B c r := by
  simp [transpose]

@[simp] theorem transpose_transpose (B : Block) : transpose (transpose B) = B :=
  block_ext _ _ fun r c => by simp

@[simp] theorem transposeBytes_drain (B : Block) : transposeBytes (drain B) = some (drain (transpose B)) := by
  simp [transposeBytes]

@[simp] theorem colfirst_drain (B : Block) : colfirst (drain B) = some (transpose B) := by
  simp [colfirst]

/-- R44: byte `r + 4 * c` of the row-major drain is the cell at row `r` and column `c` of the transpose. -/
theorem getElem?_drain_colfirst (B : Block) (r c : Fin 4) :
    (drain B)[r.val + 4 * c.val]? = some (cell (transpose B) r c) := by
  rw [Nat.add_comm, getElem?_drain, cell_transpose]

/-- Settles O47: on the drain of a Block the transpose of bytes is the transpose of the Block, which undoes itself. -/
theorem transposeLaws : Obligations.TransposeLaws := by
  refine ⟨fun q hq => ?_, fun B => ?_⟩
  · obtain ⟨A, rfl⟩ := exists_drain_eq hq
    exact ⟨drain (transpose A), transpose A, transposeBytes_drain A, by simp, fill_drain _, colfirst_drain A,
      getElem?_drain_colfirst A⟩
  · constructor <;> simp [colfirstDrain]

end Sys2Proof.Machine
end

section
/-! Decoding and encoding are inverse, and the opcode map selects what the decoder selects
(spec/30_encoding.md R60, R61, R63, R65). -/

namespace Sys2Proof.Safety

open Sys2Proof

/-! ## The command a word selects -/

/-- The command `i` with the word's fields for its operands, those that its format uses. -/
def withFields (cw : CommandWord) : Instr → Instr
  | .get _ _ => .get (fieldA cw) (fieldB cw)
  | .set _ _ _ => .set (fieldA cw) (fieldB cw) (fieldC cw)
  | .addrk _ => .addrk (fieldA cw)
  | .getrk _ => .getrk (fieldA cw)
  | .gmul _ _ => .gmul (fieldA cw) (fieldB cw)
  | .xtime _ => .xtime (fieldA cw)
  | i => i

/-- The word has the opcode of `i` and zeros in the fields that the format of `i` does not use (R61). -/
def SelectsRowOf (cw : CommandWord) (i : Instr) : Prop :=
  fieldOp cw = opcodeOf i ∧ UnusedZero (formatOf i) (fieldA cw) (fieldB cw) (fieldC cw)

theorem opcodeOf_withFields (cw : CommandWord) (i : Instr) : opcodeOf (withFields cw i) = opcodeOf i := by
  cases i <;> rfl

/-- R65, the first test: `op` alone picks the row. -/
theorem decode_of_fieldOp {cw : CommandWord} {i : Instr} (h : fieldOp cw = opcodeOf i) :
    decode cw = checkFormat (formatOf i) cw (withFields cw i) := by
  cases i <;> simp [decode, h, opcodeOf, formatOf, withFields]

theorem decode_ok_iff_of_fieldOp {cw : CommandWord} {i j : Instr} (h : fieldOp cw = opcodeOf i) :
    decode cw = .ok j ↔ withFields cw i = j ∧ UnusedZero (formatOf i) (fieldA cw) (fieldB cw) (fieldC cw) := by
  rw [decode_of_fieldOp h, checkFormat_ok]

theorem checkFormat_fieldOp {cw : CommandWord} {f : Format} {i j : Instr} (hop : (fieldOp cw).toNat = (opcodeOf i).toNat)
    (h : checkFormat f cw i = .ok j) : fieldOp cw = opcodeOf j := by
  obtain ⟨rfl, _⟩ := (checkFormat_ok f cw i j).1 h
  exact BitVec.eq_of_toNat_eq hop

theorem fieldOp_of_decode {cw : CommandWord} {i : Instr} (h : decode cw = .ok i) : fieldOp cw = opcodeOf i := by
  unfold decode at h
  split at h
  case h_25 => cases h
  all_goals exact checkFormat_fieldOp ‹_› h

/-- R65: what a word decodes to, row by row. -/
theorem decode_ok_iff {cw : CommandWord} {i : Instr} : decode cw = .ok i ↔ SelectsRowOf cw i ∧ withFields cw i = i := by
  constructor
  · intro h
    have hop : fieldOp cw = opcodeOf i := fieldOp_of_decode h
    obtain ⟨hfields, hzero⟩ := (decode_ok_iff_of_fieldOp hop).1 h
    exact ⟨⟨hop, hzero⟩, hfields⟩
  · rintro ⟨⟨hop, hzero⟩, hfields⟩
    exact (decode_ok_iff_of_fieldOp hop).2 ⟨hfields, hzero⟩

/-! ## Encoding -/

/-- R60: a word is its four fields. -/
theorem eq_packWord_iff (cw : CommandWord) (op a b c : Byte) :
    cw = packWord op a b c ↔ fieldOp cw = op ∧ fieldA cw = a ∧ fieldB cw = b ∧ fieldC cw = c := by
  rw [← packWord_inj, packWord_fields]

theorem eq_encode_iff (cw : CommandWord) (i : Instr) : cw = encode i ↔ SelectsRowOf cw i ∧ withFields cw i = i := by
  cases i <;>
    simp [encode, eq_packWord_iff, SelectsRowOf, UnusedZero, formatOf, withFields, and_assoc, and_comm]

/-- The word of a command is the only one that decodes to it. -/
theorem oneWord_encode (i : Instr) : OneWord i (encode i) :=
  fun cw => decode_ok_iff.trans (eq_encode_iff cw i).symm

/-- Settles O1: the word of a command decodes to it. -/
theorem decodeOfEncode : Obligations.DecodeOfEncode :=
  fun i => (oneWord_encode i (encode i)).2 rfl

/-- Settles O2: no other word does. -/
theorem encodeOfDecode : Obligations.EncodeOfDecode :=
  fun cw i h => ((oneWord_encode i cw).1 h).symm

/-- Settles O4: each legal word is the encoding of its command; the illegal ones are evaluated. -/
theorem specWordsDecode : Obligations.SpecWordsDecode := by
  refine ⟨?_, ?_, ?_, ?_, ?_, ?_, ?_, ?_, ?_, ?_, ?_, by decide, by decide, by decide, by decide⟩ <;>
    exact (oneWord_encode _ _).2 (by decide)

/-! ## The opcode map -/

/-- The row of a command in the opcode map: its opcode and the mask of its format (R61, R63). -/
def opcodeRow (i : Instr) : Byte × CommandWord := (opcodeOf i, formatMask (formatOf i))

/-- One command of each row of R63, in the order of the map. -/
def rowCommands : List Instr :=
  [.get 0 0, .set 0 0 0, .ldblk, .stblk, .subbytes, .invsubbytes, .shiftrows, .invshiftrows, .mixcolumns, .invmixcolumns,
    .addrk 0, .addrki, .setkey, .getrk 0, .clrkey, .gmul 0 0, .xtime 0, .encblk, .decblk, .encrypt, .decrypt, .b64enc,
    .b64dec, .rdstat]

theorem opcodeTable_eq_map : opcodeTable = rowCommands.map opcodeRow := rfl

theorem exists_opcodeRow_of_mem {row : Byte × CommandWord} (h : row ∈ opcodeTable) : ∃ i, opcodeRow i = row := by
  rw [opcodeTable_eq_map, List.mem_map] at h
  obtain ⟨i, _, hi⟩ := h
  exact ⟨i, hi⟩

theorem opcodeRow_mem (i : Instr) : opcodeRow i ∈ opcodeTable := by
  cases i <;> simp [opcodeRow, opcodeTable, opcodeOf, formatOf, formatMask]

theorem ofNat_eq_packWord (op : Byte) : BitVec.ofNat 32 (op.toNat * 2 ^ 24) = packWord op 0 0 0 := by
  rw [← opMatch_eq, opMatch]
  apply BitVec.eq_of_toNat_eq
  simp [Nat.shiftLeft_eq]

/-- R61: the mask keeps `op` and the fields that must be zero. -/
theorem matchesRow_opcodeRow (cw : CommandWord) (i : Instr) : MatchesRow cw (opcodeRow i) ↔ SelectsRowOf cw i := by
  unfold MatchesRow opcodeRow SelectsRowOf
  conv => lhs; lhs; rw [← packWord_fields cw]
  rw [masked_packWord, ofNat_eq_packWord]
  cases formatOf i <;> simp [packWord_inj, UnusedZero]

/-- R65: a word of the row of `i` decodes to a command of that opcode, and no other word does. -/
theorem selectsRowOf_iff_decode (cw : CommandWord) (i : Instr) :
    SelectsRowOf cw i ↔ ∃ j, decode cw = .ok j ∧ opcodeOf j = opcodeOf i := by
  constructor
  · rintro ⟨hop, hzero⟩
    exact ⟨withFields cw i, (decode_ok_iff_of_fieldOp hop).2 ⟨rfl, hzero⟩, opcodeOf_withFields cw i⟩
  · rintro ⟨j, hj, hopcode⟩
    have hop : fieldOp cw = opcodeOf i := (fieldOp_of_decode hj).trans hopcode
    obtain ⟨_, hzero⟩ := (decode_ok_iff_of_fieldOp hop).1 hj
    exact ⟨hop, hzero⟩

/-- Settles O3: every row is the row of a command, and the row of the command that a word decodes to matches the word. -/
theorem wordSelectsRow : Obligations.WordSelectsRow := by
  refine fun cw => ⟨fun row hrow => ?_, fun ⟨i, hi⟩ => ⟨opcodeRow i, opcodeRow_mem i, ?_⟩⟩
  · obtain ⟨i, rfl⟩ := exists_opcodeRow_of_mem hrow
    exact (matchesRow_opcodeRow cw i).trans (selectsRowOf_iff_decode cw i)
  · have hselects : SelectsRowOf cw i := (selectsRowOf_iff_decode cw i).2 ⟨i, hi, rfl⟩
    exact (matchesRow_opcodeRow cw i).2 hselects

end Sys2Proof.Safety
end

section
/-! The checks that begin a command's body, and what they leave of it: Overrun, then the payload's length
(spec/60_exceptions.md R198, steps 2 and 3). -/

namespace Sys2Proof.Safety

open Sys2Proof Sys2Proof.Machine

theorem oneWord_of_encode_eq {i : Instr} {w : CommandWord} (h : encode i = w) : OneWord i w :=
  h ▸ oneWord_encode i

/-- The body of a command without payload: the two checks, then the rest `r`. -/
def afterNoPayload (s : State) (r : Except FaultCode (State × Bytes)) : Except FaultCode (State × Bytes) := do
  checkOverrun s
  checkNoPayload s
  r

/-- The body of a command that takes a Block and reports another length with `f`: the two checks, then the rest `g` on
that Block. -/
def afterBlockPayload (f : FaultCode) (s : State) (g : Block → Except FaultCode (State × Bytes)) :
    Except FaultCode (State × Bytes) := do
  checkOverrun s
  let B ← payloadBlock f s
  g B

theorem afterNoPayload_of_empty {s : State} (r : Except FaultCode (State × Bytes)) (h : s.input = []) :
    afterNoPayload s r = r := by
  have hoverrun : checkOverrun s = .ok () := checkOverrun_of_not (not_overruns_of_le (by simp [h]))
  have hlength : checkNoPayload s = .ok () := checkNoPayload_of_eq (by simp [h])
  simp [afterNoPayload, hoverrun, hlength]

theorem afterBlockPayload_of_fill {s : State} {B : Block} (f : FaultCode)
    (g : Block → Except FaultCode (State × Bytes)) (h : fill s.input = some B) : afterBlockPayload f s g = g B := by
  have hoverrun : checkOverrun s = .ok () := checkOverrun_of_not (not_overruns_of_le (length_of_fill h).le)
  simp [afterBlockPayload, hoverrun, payloadBlock_of_fill h]

theorem checksPayload_of_afterNoPayload {i : Instr} {s : State} {r : Except FaultCode (State × Bytes)}
    (hexec : exec i s = finish s (afterNoPayload s r)) : ChecksPayload i 0 3 s := by
  refine ⟨fun hover => ?_, fun hfits hlen => ?_⟩ <;> rw [hexec]
  · have hbody : afterNoPayload s r = .error .overrun := by simp [afterNoPayload, checkOverrun_of hover]
    rw [hbody, finish_error, codeNumber]
  · have hbody : afterNoPayload s r = .error .lengthError := by
      simp [afterNoPayload, checkOverrun_of_not hfits, checkNoPayload_of_ne hlen]
    rw [hbody, finish_error, codeNumber]

theorem checksPayload_of_afterBlockPayload {i : Instr} {s : State} {f : FaultCode}
    {g : Block → Except FaultCode (State × Bytes)} (hexec : exec i s = finish s (afterBlockPayload f s g)) :
    ChecksPayload i 16 (codeNumber f) s := by
  refine ⟨fun hover => ?_, fun hfits hlen => ?_⟩ <;> rw [hexec]
  · have hbody : afterBlockPayload f s g = .error .overrun := by simp [afterBlockPayload, checkOverrun_of hover]
    rw [hbody, finish_error, codeNumber]
  · have hbody : afterBlockPayload f s g = .error f := by
      simp [afterBlockPayload, checkOverrun_of_not hfits, payloadBlock_of_ne hlen]
    rw [hbody, finish_error]

end Sys2Proof.Safety
end

section
/-! The commands on the cells of `S`: GET, SET, LDBLK, STBLK (spec/40_state_block.md R80 to R83). -/

namespace Sys2Proof.Safety

open Sys2Proof Sys2Proof.Machine

/-! ## One cell -/

/-- R80: the body of GET, after its checks of the payload. -/
theorem exec_get (a b : Byte) (s : State) :
    exec (.get a b) s = finish s (afterNoPayload s (cellIndex a b >>= fun p => .ok (s, [cell s.S p.1 p.2]))) := rfl

/-- R81: the body of SET, after its checks of the payload. -/
theorem exec_set (a b v : Byte) (s : State) :
    exec (.set a b v) s =
      finish s (afterNoPayload s (cellIndex a b >>= fun p => .ok (writeS (setCell s.S p.1 p.2 v) s, []))) := rfl

theorem cellIndex_of_above {a b : Byte} (h : 3 < a.toNat ∨ 3 < b.toNat) : cellIndex a b = .error .indexError :=
  (cellIndex_error a b .indexError).2 ⟨rfl, h⟩

theorem cellIndex_of_eq {a b : Byte} {r c : Fin 4} (ha : a.toNat = r.val) (hb : b.toNat = c.val) :
    cellIndex a b = .ok (r, c) :=
  (cellIndex_ok a b r c).2 ⟨ha, hb⟩

@[simp] theorem cell_setCell_same (B : Block) (r c : Fin 4) (v : Byte) : cell (setCell B r c v) r c = v := by
  simp [cell_setCell]

theorem cell_setCell_of_ne (B : Block) {r c r' c' : Fin 4} (v : Byte) (h : (r', c') ≠ (r, c)) :
    cell (setCell B r c v) r' c' = cell B r' c' := by
  rw [cell_setCell, if_neg (by simpa using h)]

/-- Settles O10: after the payload checks GET is the index check and the read of one cell. -/
theorem getReadsCell : Obligations.GetReadsCell := by
  refine fun s a b => ⟨oneWord_of_encode_eq rfl, checksPayload_of_afterNoPayload (exec_get a b s), ?_, ?_⟩
  · intro hinput habove
    rw [exec_get, afterNoPayload_of_empty _ hinput, cellIndex_of_above habove, bind_error_eq, finish_error, codeNumber]
  · intro r c hinput ha hb
    rw [exec_get, afterNoPayload_of_empty _ hinput, cellIndex_of_eq ha hb, bind_ok_eq, finish_ok]

/-- Settles O11: after the payload checks SET is the index check and the write of one cell. -/
theorem setWritesOneCell : Obligations.SetWritesOneCell := by
  refine fun s a b v => ⟨oneWord_of_encode_eq rfl, checksPayload_of_afterNoPayload (exec_set a b v s), ?_, ?_⟩
  · intro hinput habove
    rw [exec_set, afterNoPayload_of_empty _ hinput, cellIndex_of_above habove, bind_error_eq, finish_error, codeNumber]
  · intro r c hinput ha hb
    refine ⟨setCell s.S r c v, ?_, cell_setCell_same s.S r c v, fun r' c' => cell_setCell_of_ne s.S v⟩
    rw [exec_set, afterNoPayload_of_empty _ hinput, cellIndex_of_eq ha hb, bind_ok_eq, finish_ok, writeS]

/-! ## The whole Block -/

/-- R82: the body of LDBLK, after its checks of the payload. -/
theorem exec_ldblk (s : State) :
    exec .ldblk s = finish s (afterBlockPayload .lengthError s fun B => .ok (writeS B s, [])) := rfl

/-- R83: the body of STBLK, after its checks of the payload. -/
theorem exec_stblk (s : State) : exec .stblk s = finish s (afterNoPayload s (.ok (s, drain s.S))) := rfl

/-- Settles O12: LDBLK writes the Block whose drain is the payload, STBLK answers the drain of `S`, and a drain is
row-major. -/
theorem loadAndStoreBlock : Obligations.LoadAndStoreBlock := by
  refine fun s => ⟨oneWord_of_encode_eq (by decide), checksPayload_of_afterBlockPayload (exec_ldblk s), ?_,
    oneWord_of_encode_eq (by decide), checksPayload_of_afterNoPayload (exec_stblk s), ?_⟩
  · intro hlength
    obtain ⟨B, hB⟩ := exists_drain_eq hlength
    have hfill : fill s.input = some B := hB ▸ fill_drain B
    refine ⟨B, ?_, hB ▸ getElem?_drain B⟩
    rw [exec_ldblk, afterBlockPayload_of_fill _ _ hfill, finish_ok, writeS]
  · intro hinput
    refine ⟨drain s.S, ?_, drain_length s.S, getElem?_drain s.S⟩
    rw [exec_stblk, afterNoPayload_of_empty _ hinput, finish_ok]

end Sys2Proof.Safety
end

section
/-! The field GF(2^8): the laws of `xtime` and `gmul` (spec/43_gf_arithmetic.md R120, R121). They turn on one fact about
the loop of R121: whatever is additive and commutes with `xtime` commutes with multiplication by `b`. -/

namespace Sys2Proof.Machine

open Sys2Proof

/-- Both the shift and the reduction are additive; two reductions cancel. -/
theorem xtime_xor (a b : Byte) : xtime (a ^^^ b) = xtime a ^^^ xtime b := by
  simp only [xtime, BitVec.shiftLeft_xor_distrib, BitVec.getLsbD_xor]
  cases a.getLsbD 7 <;> cases b.getLsbD 7
  case false.false => rfl
  case false.true => exact BitVec.xor_assoc _ _ _
  case true.false =>
    show a <<< 1 ^^^ b <<< 1 ^^^ 0x1B#8 = a <<< 1 ^^^ 0x1B#8 ^^^ b <<< 1
    ac_rfl
  case true.true =>
    calc a <<< 1 ^^^ b <<< 1
      _ = a <<< 1 ^^^ b <<< 1 ^^^ (0x1B#8 ^^^ 0x1B#8) := by simp
      _ = a <<< 1 ^^^ 0x1B#8 ^^^ (b <<< 1 ^^^ 0x1B#8) := by ac_rfl

/-! ## What commutes with the loop -/

/-- A map that is additive and commutes with `xtime` may be applied to the accumulator and the first factor. -/
theorem map_gmulLoop {f : Byte → Byte} (hxor : ∀ x y, f (x ^^^ y) = f x ^^^ f y) (hxtime : ∀ x, f (xtime x) = xtime (f x))
    (n : Nat) (p a b : Byte) : f (gmulLoop n p a b) = gmulLoop n (f p) (f a) b := by
  induction n generalizing p a b with
  | zero => rfl
  | succ n ih => simp only [gmulLoop, ih, hxtime, apply_ite f, hxor]

theorem map_gmul {f : Byte → Byte} (hxor : ∀ x y, f (x ^^^ y) = f x ^^^ f y) (hxtime : ∀ x, f (xtime x) = xtime (f x))
    (a b : Byte) : f (gmul a b) = gmul (f a) b := by
  have hzero : f 0#8 = 0#8 := by simpa using hxor 0#8 0#8
  rw [gmul, map_gmulLoop hxor hxtime, hzero, gmul]

theorem gmulLoop_xor_left (n : Nat) (p q a b c : Byte) :
    gmulLoop n (p ^^^ q) (a ^^^ b) c = gmulLoop n p a c ^^^ gmulLoop n q b c := by
  induction n generalizing p q a b c with
  | zero => rfl
  | succ n ih =>
    simp only [gmulLoop, xtime_xor, ← ih]
    split <;> ac_rfl

theorem gmul_xor_left (a b c : Byte) : gmul (a ^^^ b) c = gmul a c ^^^ gmul b c := gmulLoop_xor_left 8 0#8 0#8 a b c

theorem gmul_xtime_left (a b : Byte) : gmul (xtime a) b = xtime (gmul a b) := (map_gmul xtime_xor (fun _ => rfl) a b).symm

/-! ## The laws of a commutative ring -/

/-- Multiplying by `c` commutes with multiplying by `b`. -/
theorem gmul_right_comm (a b c : Byte) : gmul (gmul a b) c = gmul (gmul a c) b :=
  map_gmul (f := fun x => gmul x c) (fun x y => gmul_xor_left x y c) (fun x => gmul_xtime_left x c) a b

@[simp] theorem gmul_one_left (a : Byte) : gmul 1#8 a = a := by
  revert a
  decide +kernel

theorem gmul_comm (a b : Byte) : gmul a b = gmul b a := by
  simpa using gmul_right_comm 1#8 a b

theorem gmul_assoc (a b c : Byte) : gmul (gmul a b) c = gmul a (gmul b c) := by
  rw [gmul_comm a b, gmul_right_comm, gmul_comm]

theorem gmul_xor_right (a b c : Byte) : gmul a (b ^^^ c) = gmul a b ^^^ gmul a c := by
  simp only [gmul_comm a, gmul_xor_left]

@[simp] theorem gmul_zero_left (a : Byte) : gmul 0#8 a = 0#8 := by
  simpa using gmul_xor_left 0#8 0#8 a

theorem gmul_two_left (a : Byte) : gmul 2#8 a = xtime a := by
  have hdouble : xtime 1#8 = 2#8 := by decide
  rw [← hdouble, gmul_xtime_left, gmul_one_left]

theorem gmul_three_left (a : Byte) : gmul 3#8 a = xtime a ^^^ a := by
  simpa [gmul_two_left] using gmul_xor_left 2#8 1#8 a

end Sys2Proof.Machine
end

section
/-! The round transforms cell by cell, MixColumns as a product of polynomials, and the inverse identities
(spec/41_round_transforms.md R90 to R97, R106, R107). -/

namespace Sys2Proof.Safety

open Sys2Proof Sys2Proof.Machine

/-! ## The substitution tables -/

@[simp] theorem invSbox_sbox (v : Byte) : invSbox (sbox v) = v := by
  revert v
  decide +kernel

@[simp] theorem sbox_invSbox (v : Byte) : sbox (invSbox v) = v := by
  revert v
  decide +kernel

theorem sbox_ne_self (v : Byte) : sbox v ≠ v := by
  revert v
  decide +kernel

/-- Settles O34: the three facts, each read off the 256 entries of the tables. -/
theorem sboxTablesInverse : Obligations.SboxTablesInverse :=
  fun v => ⟨invSbox_sbox v, sbox_invSbox v, sbox_ne_self v⟩

/-! ## Substitution, rotation and XOR of cells -/

@[simp] theorem cell_subBytes (B : Block) (r c : Fin 4) : cell (subBytes B) r c = sbox (cell B r c) := by
  simp [subBytes]

@[simp] theorem cell_invSubBytes (B : Block) (r c : Fin 4) : cell (invSubBytes B) r c = invSbox (cell B r c) := by
  simp [invSubBytes]

@[simp] theorem cell_shiftRows (B : Block) (r c : Fin 4) : cell (shiftRows B) r c = cell B r (c + r) := by
  simp [shiftRows]

@[simp] theorem cell_invShiftRows (B : Block) (r c : Fin 4) : cell (invShiftRows B) r c = cell B r (c - r) := by
  simp [invShiftRows]

@[simp] theorem cell_addRoundKey (B K : Block) (r c : Fin 4) :
    cell (addRoundKey B K) r c = cell B r c ^^^ cell K r c := by
  simp [addRoundKey]

/-- The sum in `Fin 4` is the index of R94. -/
theorem column_add_eq (c r : Fin 4) : c + r = ⟨(c.val + r.val) % 4, Nat.mod_lt _ (by decide)⟩ := rfl

/-- The difference in `Fin 4` is the index of R95, written without a negative number. -/
theorem column_sub_eq (c r : Fin 4) : c - r = ⟨(c.val + 4 - r.val) % 4, Nat.mod_lt _ (by decide)⟩ := by
  apply Fin.ext
  rw [Fin.val_sub]
  congr 1
  omega

/-- Settles O35: the cells of the five transforms, with the index of a rotated cell as the spec writes it. -/
theorem transformsCellByCell : Obligations.TransformsCellByCell := by
  refine fun B K r c => ⟨cell_subBytes B r c, cell_invSubBytes B r c, ?_, ?_, cell_addRoundKey B K r c⟩
  · rw [cell_shiftRows, column_add_eq]
  · rw [cell_invShiftRows, column_sub_eq]

/-! ## The mixing of columns -/

/-! The rows of the matrix that the coefficients make: R96's index `(i - j) mod 4`, worked out. -/

@[simp] theorem productCoefficient_zero (coef : Fin 4 → Byte) (s : Word) : productCoefficient coef s 0 =
    gmul (coef 0) s.t0 ^^^ gmul (coef 3) s.t1 ^^^ gmul (coef 2) s.t2 ^^^ gmul (coef 1) s.t3 := rfl

@[simp] theorem productCoefficient_one (coef : Fin 4 → Byte) (s : Word) : productCoefficient coef s 1 =
    gmul (coef 1) s.t0 ^^^ gmul (coef 0) s.t1 ^^^ gmul (coef 3) s.t2 ^^^ gmul (coef 2) s.t3 := rfl

@[simp] theorem productCoefficient_two (coef : Fin 4 → Byte) (s : Word) : productCoefficient coef s 2 =
    gmul (coef 2) s.t0 ^^^ gmul (coef 1) s.t1 ^^^ gmul (coef 0) s.t2 ^^^ gmul (coef 3) s.t3 := rfl

@[simp] theorem productCoefficient_three (coef : Fin 4 → Byte) (s : Word) : productCoefficient coef s 3 =
    gmul (coef 3) s.t0 ^^^ gmul (coef 2) s.t1 ^^^ gmul (coef 1) s.t2 ^^^ gmul (coef 0) s.t3 := rfl

theorem cell_ofColumns (f : Word → Word) (B : Block) (i c : Fin 4) :
    cell (ofColumns (f (colOf B 0)) (f (colOf B 1)) (f (colOf B 2)) (f (colOf B 3))) i c = wordGet (f (colOf B c)) i := by
  rw [ofColumns, cell_blockOf]
  fin_cases c <;> rfl

theorem wordGet_mixColumn (s : Word) (i : Fin 4) : wordGet (mixColumn s) i = productCoefficient mixCoefficient s i := by
  fin_cases i <;> simp [wordGet, mixColumn, m2, m3, mixCoefficient, gmul_two_left, gmul_three_left]

theorem wordGet_invMixColumn (s : Word) (i : Fin 4) :
    wordGet (invMixColumn s) i = productCoefficient invMixCoefficient s i := by
  simp only [productCoefficient, gmul_comm (invMixCoefficient _)]
  fin_cases i <;> rfl

theorem cell_mixColumns (B : Block) (i c : Fin 4) :
    cell (mixColumns B) i c = productCoefficient mixCoefficient (colOf B c) i :=
  (cell_ofColumns mixColumn B i c).trans (wordGet_mixColumn (colOf B c) i)

theorem cell_invMixColumns (B : Block) (i c : Fin 4) :
    cell (invMixColumns B) i c = productCoefficient invMixCoefficient (colOf B c) i :=
  (cell_ofColumns invMixColumn B i c).trans (wordGet_invMixColumn (colOf B c) i)

/-- Settles O36: each cell of the two transforms is a coefficient of the product. -/
theorem columnMixingIsPolynomialProduct : Obligations.ColumnMixingIsPolynomialProduct :=
  fun B i c => ⟨cell_mixColumns B i c, cell_invMixColumns B i c⟩

/-! ## The product modulo `x⁴+1` -/

/-- Multiplying by `q`, then by `p`, multiplies by the product of `p` and `q`. -/
theorem productCoefficient_assoc (p q : Fin 4 → Byte) (s : Word) (i : Fin 4) :
    productCoefficient p (wordOf (productCoefficient q s)) i =
      productCoefficient (productCoefficient p (wordOf q)) s i := by
  fin_cases i <;>
    simp only [Fin.zero_eta, Fin.mk_one, Fin.reduceFinMk, wordOf, productCoefficient_zero, productCoefficient_one,
      productCoefficient_two, productCoefficient_three, gmul_xor_left, gmul_xor_right, gmul_assoc] <;>
    ac_rfl

/-- The coefficients of the polynomial 1. -/
def unitCoefficient (i : Fin 4) : Byte := if i = 0 then 0x01#8 else 0x00#8

theorem productCoefficient_unit (s : Word) (i : Fin 4) : productCoefficient unitCoefficient s i = wordGet s i := by
  fin_cases i <;> simp [unitCoefficient, wordGet]

/-- R97: the polynomial of InvMixColumns is the inverse of the polynomial of MixColumns. -/
theorem invMix_mul_mix : productCoefficient invMixCoefficient (wordOf mixCoefficient) = unitCoefficient := by
  decide +kernel

theorem mix_mul_invMix : productCoefficient mixCoefficient (wordOf invMixCoefficient) = unitCoefficient := by
  decide +kernel

/-- Two transforms that multiply each column undo each other when their polynomials have the product 1. -/
theorem columnProducts_cancel {p q : Fin 4 → Byte} {f g : Block → Block}
    (hf : ∀ B i c, cell (f B) i c = productCoefficient p (colOf B c) i)
    (hg : ∀ B i c, cell (g B) i c = productCoefficient q (colOf B c) i)
    (hpq : productCoefficient p (wordOf q) = unitCoefficient) (B : Block) : f (g B) = B := by
  refine block_ext _ _ fun i c => ?_
  have hcolumn : colOf (g B) c = wordOf (productCoefficient q (colOf B c)) := by simp only [colOf, hg]
  rw [hf, hcolumn, productCoefficient_assoc, hpq, productCoefficient_unit, wordGet_colOf]

@[simp] theorem invMixColumns_mixColumns (B : Block) : invMixColumns (mixColumns B) = B :=
  columnProducts_cancel cell_invMixColumns cell_mixColumns invMix_mul_mix B

@[simp] theorem mixColumns_invMixColumns (B : Block) : mixColumns (invMixColumns B) = B :=
  columnProducts_cancel cell_mixColumns cell_invMixColumns mix_mul_invMix B

/-! ## The inverse identities -/

@[simp] theorem invSubBytes_subBytes (B : Block) : invSubBytes (subBytes B) = B := block_ext _ _ fun r c => by simp

@[simp] theorem subBytes_invSubBytes (B : Block) : subBytes (invSubBytes B) = B := block_ext _ _ fun r c => by simp

@[simp] theorem invShiftRows_shiftRows (B : Block) : invShiftRows (shiftRows B) = B := block_ext _ _ fun r c => by simp

@[simp] theorem shiftRows_invShiftRows (B : Block) : shiftRows (invShiftRows B) = B := block_ext _ _ fun r c => by simp

@[simp] theorem addRoundKey_addRoundKey (B K : Block) : addRoundKey (addRoundKey B K) K = B :=
  block_ext _ _ fun r c => by simp

/-- Settles O37: the tables are inverse, the rotations are opposite, the two polynomials have the product 1, and an XOR
cancels itself. -/
theorem transformsInvert : Obligations.TransformsInvert :=
  fun B K => ⟨invSubBytes_subBytes B, subBytes_invSubBytes B, invShiftRows_shiftRows B, shiftRows_invShiftRows B,
    invMixColumns_mixColumns B, mixColumns_invMixColumns B, addRoundKey_addRoundKey B K⟩

end Sys2Proof.Safety
end

section
/-! The commands of the round transform engine (spec/41_round_transforms.md R98 to R105). -/

namespace Sys2Proof.Safety

open Sys2Proof Sys2Proof.Machine

/-! ## The six transforms of `S` -/

/-- R98 to R103: the body of a transform command, after its checks of the payload. -/
theorem transformS_eq_finish (f : Block → Block) (s : State) :
    transformS f s = finish s (afterNoPayload s (.ok (writeS (f s.S) s, []))) := rfl

/-- The three claims about a command that transforms `S` by `f`: its only word, its payload checks and its effect. -/
theorem claims_of_transformS {i : Instr} {w : CommandWord} {f : Block → Block} {s : State} (hword : encode i = w)
    (hexec : exec i s = transformS f s) :
    OneWord i w ∧ ChecksPayload i 0 3 s ∧ (s.input = [] → exec i s = .next (completed { s with S := f s.S } [])) := by
  rw [transformS_eq_finish] at hexec
  refine ⟨oneWord_of_encode_eq hword, checksPayload_of_afterNoPayload hexec, fun hinput => ?_⟩
  rw [hexec, afterNoPayload_of_empty _ hinput, finish_ok, writeS]

/-- Settles O13: each of the six rows is a command that `exec` runs as `transformS` of its function. -/
theorem transformsReplaceS : Obligations.TransformsReplaceS := by
  intro s row hrow
  simp only [List.mem_cons, List.not_mem_nil, or_false] at hrow
  obtain rfl | rfl | rfl | rfl | rfl | rfl := hrow <;> exact claims_of_transformS (by decide) rfl

/-! ## The XOR of a key -/

/-- R104: the body of ADDRK, after its checks of the payload: the index, then the key. -/
theorem exec_addrk (a : Byte) (s : State) :
    exec (.addrk a) s = finish s (afterNoPayload s (roundKeyIndex a >>= fun k => keySchedule s >>= fun rk =>
      .ok (writeS (addRoundKey s.S rk[k]) s, []))) := rfl

/-- R105: the body of ADDRKI, after its checks of the payload. -/
theorem exec_addrki (s : State) :
    exec .addrki s =
      finish s (afterBlockPayload .lengthError s fun K => .ok (writeS (addRoundKey s.S K) s, [])) := rfl

theorem roundKeyIndex_of_above {a : Byte} (h : 10 < a.toNat) : roundKeyIndex a = .error .indexError :=
  (roundKeyIndex_error a .indexError).2 ⟨rfl, h⟩

theorem roundKeyIndex_of_eq {a : Byte} {k : Fin 11} (h : a.toNat = k.val) : roundKeyIndex a = .ok k :=
  (roundKeyIndex_ok a k).2 h

/-- R41: 16 bytes fill a Block. -/
theorem exists_fill_eq {q : Bytes} (h : q.length = 16) : ∃ B : Block, fill q = some B := by
  obtain ⟨B, rfl⟩ := exists_drain_eq h
  exact ⟨B, fill_drain B⟩

/-- Settles O14: after the payload checks ADDRK is the index check, the key check and the XOR; ADDRKI is the XOR with the
payload's Block. -/
theorem addRoundKeyCommands : Obligations.AddRoundKeyCommands := by
  refine fun s a => ⟨oneWord_of_encode_eq rfl, checksPayload_of_afterNoPayload (exec_addrk a s), ?_, ?_, ?_,
    oneWord_of_encode_eq (by decide), checksPayload_of_afterBlockPayload (exec_addrki s), ?_⟩
  · intro hinput habove
    rw [exec_addrk, afterNoPayload_of_empty _ hinput, roundKeyIndex_of_above habove, bind_error_eq, finish_error,
      codeNumber]
  · intro hinput hle hnoKey
    have hindex : roundKeyIndex a = .ok ⟨a.toNat, Nat.lt_succ_of_le hle⟩ := roundKeyIndex_of_eq rfl
    rw [exec_addrk, afterNoPayload_of_empty _ hinput, hindex, bind_ok_eq, keySchedule_of_noKey hnoKey, bind_error_eq,
      finish_error, codeNumber]
  · intro k hinput hk hkey
    rw [exec_addrk, afterNoPayload_of_empty _ hinput, roundKeyIndex_of_eq hk, bind_ok_eq, keySchedule_of_key hkey,
      bind_ok_eq, finish_ok, writeS]
  · intro hlength
    obtain ⟨K, hfill⟩ := exists_fill_eq hlength
    refine ⟨K, hfill, ?_⟩
    rw [exec_addrki, afterBlockPayload_of_fill _ _ hfill, finish_ok, writeS]

end Sys2Proof.Safety
end

section
/-! The key expansion: the columns of the next round key, cell by cell, and the values the spec gives
(spec/42_key_schedule.md R110 to R112, R116). -/

namespace Sys2Proof.Safety

open Sys2Proof Sys2Proof.Machine

/-! ## The operations on words -/

@[simp] theorem wordGet_xorWord (u v : Word) (i : Fin 4) : wordGet (xorWord u v) i = wordGet u i ^^^ wordGet v i := by
  fin_cases i <;> rfl

/-- R111: RotWord moves each byte up by one row; the sum in `Fin 4` is the one mod 4. -/
@[simp] theorem wordGet_rotWord (t : Word) (i : Fin 4) : wordGet (rotWord t) i = wordGet t (i + 1) := by
  fin_cases i <;> rfl

@[simp] theorem wordGet_subWord (t : Word) (i : Fin 4) : wordGet (subWord t) i = sbox (wordGet t i) := by
  fin_cases i <;> rfl

/-! ## The next round key -/

/-- The word that goes into column 0 of the next round key: the last column of `P` rotated and substituted, with the
round constant in row 0 (R112 steps 1 to 3). -/
def transformedColumn (rc : Byte) (P : Block) : Word :=
  let t := subWord (rotWord (colOf P 3))
  { t with t0 := t.t0 ^^^ rc }

theorem wordGet_transformedColumn (rc : Byte) (P : Block) (i : Fin 4) :
    wordGet (transformedColumn rc P) i = sbox (cell P (i + 1) 3) ^^^ (if i = 0 then rc else 0x00#8) := by
  have hsub : wordGet (subWord (rotWord (colOf P 3))) i = sbox (cell P (i + 1) 3) := by simp
  rw [← hsub]
  fin_cases i
  · rfl
  all_goals exact BitVec.xor_zero.symm

theorem colOf_nextRoundKey_zero (rc : Byte) (P : Block) :
    colOf (nextRoundKey rc P) 0 = xorWord (colOf P 0) (transformedColumn rc P) := rfl

/-- R112, steps 4 and 5: every other column is the old one XORed with the new column to its left. -/
theorem colOf_nextRoundKey_succ (rc : Byte) (P : Block) (j : Fin 3) :
    colOf (nextRoundKey rc P) j.succ = xorWord (colOf P j.succ) (colOf (nextRoundKey rc P) j.castSucc) := by
  fin_cases j <;> rfl

theorem cell_nextRoundKey_zero (rc : Byte) (P : Block) (i : Fin 4) :
    cell (nextRoundKey rc P) i 0 =
      cell P i 0 ^^^ sbox (cell P (i + 1) 3) ^^^ (if i = 0 then rc else 0x00#8) := by
  rw [← wordGet_colOf, colOf_nextRoundKey_zero, wordGet_xorWord, wordGet_colOf, wordGet_transformedColumn,
    BitVec.xor_assoc]

theorem cell_nextRoundKey_of_val_eq (rc : Byte) (P : Block) (i : Fin 4) {c c' : Fin 4} (h : c.val = c'.val + 1) :
    cell (nextRoundKey rc P) i c = cell P i c ^^^ cell (nextRoundKey rc P) i c' := by
  obtain ⟨j, rfl, rfl⟩ : ∃ j : Fin 3, c = j.succ ∧ c' = j.castSucc :=
    ⟨⟨c'.val, by omega⟩, Fin.ext h, rfl⟩
  rw [← wordGet_colOf, colOf_nextRoundKey_succ, wordGet_xorWord, wordGet_colOf, wordGet_colOf]

/-! ## The schedule -/

@[simp] theorem getElem_expandKey (K : Block) (k : Nat) (h : k < 11) : (expandKey K)[k] = roundKey K k := by
  simp [expandKey]

/-- Settles O41: round key `k + 1` is the next round key after round key `k`, whose cells the two lemmas on
`nextRoundKey` give. -/
theorem keyExpansionRecurrence : Obligations.KeyExpansionRecurrence := by
  refine fun K => ⟨getElem_expandKey K 0 _, fun k h i => ?_⟩
  have hnext : (expandKey K)[k + 1] = nextRoundKey (rconAfter k) (expandKey K)[k] := by
    rw [getElem_expandKey, getElem_expandKey, roundKey]
  rw [hnext]
  exact ⟨cell_nextRoundKey_zero _ _ i, fun c c' hc => cell_nextRoundKey_of_val_eq _ _ i hc⟩

/-- Settles O40: the ten values, by doubling. -/
theorem roundConstants : Obligations.RoundConstants := by
  unfold Obligations.RoundConstants
  decide

/-- Settles O42: round key 0 is the key by definition; the other three are evaluated. -/
theorem knownKeySchedules : Obligations.KnownKeySchedules := by
  refine ⟨fun K => getElem_expandKey K 0 _, ?_, ?_, ?_⟩ <;> rw [getElem_expandKey] <;> decide +kernel

end Sys2Proof.Safety
end

section
/-! The commands of the key schedule: SETKEY, GETRK, CLRKEY (spec/42_key_schedule.md R113 to R115). -/

namespace Sys2Proof.Safety

open Sys2Proof Sys2Proof.Machine

/-! ## SETKEY -/

/-- R113: the body of SETKEY, after its checks of the payload. -/
theorem exec_setkey (s : State) :
    exec .setkey s =
      finish s (afterBlockPayload .invalidKeyLength s fun K => .ok (writeKey (expandKey K) s, [])) := rfl

/-- Settles O15: after the payload checks SETKEY is the write of the expanded key. -/
theorem setKeyExpands : Obligations.SetKeyExpands := by
  refine fun s => ⟨oneWord_of_encode_eq (by decide), checksPayload_of_afterBlockPayload (exec_setkey s),
    fun hlength => ?_⟩
  obtain ⟨K, hfill⟩ := exists_fill_eq hlength
  refine ⟨K, hfill, ?_⟩
  rw [exec_setkey, afterBlockPayload_of_fill _ _ hfill, finish_ok, writeKey]

/-! ## GETRK -/

/-- R114: the body of GETRK, after its checks of the payload: the index, then the key. -/
theorem exec_getrk (a : Byte) (s : State) :
    exec (.getrk a) s = finish s (afterNoPayload s (roundKeyIndex a >>= fun k => keySchedule s >>= fun rk =>
      .ok (s, drain rk[k]))) := rfl

/-- Settles O16: after the payload checks GETRK is the index check, the key check and the read of one round key. -/
theorem getRoundKey : Obligations.GetRoundKey := by
  refine fun s a => ⟨oneWord_of_encode_eq rfl, checksPayload_of_afterNoPayload (exec_getrk a s), ?_, ?_, ?_⟩
  · intro hinput habove
    rw [exec_getrk, afterNoPayload_of_empty _ hinput, roundKeyIndex_of_above habove, bind_error_eq, finish_error,
      codeNumber]
  · intro hinput hle hnoKey
    have hindex : roundKeyIndex a = .ok ⟨a.toNat, Nat.lt_succ_of_le hle⟩ := roundKeyIndex_of_eq rfl
    rw [exec_getrk, afterNoPayload_of_empty _ hinput, hindex, bind_ok_eq, keySchedule_of_noKey hnoKey, bind_error_eq,
      finish_error, codeNumber]
  · intro k hinput hk hkey
    rw [exec_getrk, afterNoPayload_of_empty _ hinput, roundKeyIndex_of_eq hk, bind_ok_eq, keySchedule_of_key hkey,
      bind_ok_eq, finish_ok]

/-! ## CLRKEY -/

/-- R115: the body of CLRKEY, after its checks of the payload. -/
theorem exec_clrkey (s : State) : exec .clrkey s = finish s (afterNoPayload s (.ok (endCipher s, []))) := rfl

theorem exec_clrkey_of_noPayload {s : State} (h : s.input = []) :
    exec .clrkey s = .next (completed (endCipher s) []) := by
  rw [exec_clrkey, afterNoPayload_of_empty _ h, finish_ok]

/-- R115: the end of the Cipher writes `KEYV`, some bytes in `RK` and the count of free bytes, and nothing else. -/
theorem exists_endCipher_eq (s : State) :
    ∃ (rk : Vector Block 11) (n : Nat), endCipher s = { s with RK := rk, KEYV := false, freeCount := n } := by
  cases hkey : s.KEYV with
  | true => exact ⟨freeSchedule s.freeCount, s.freeCount + 176, by rw [endCipher, if_pos hkey]⟩
  | false => exact ⟨s.RK, s.freeCount, by rw [endCipher_of_noKey s hkey, ← hkey]⟩

/-- Settles O17: after the payload checks CLRKEY is the end of the Cipher, which does nothing when there is none. -/
theorem clearKeyEndsCipher : Obligations.ClearKeyEndsCipher := by
  refine fun s => ⟨oneWord_of_encode_eq (by decide), checksPayload_of_afterNoPayload (exec_clrkey s), ?_, ?_⟩
  · intro hinput
    obtain ⟨rk, n, hend⟩ := exists_endCipher_eq s
    exact ⟨rk, n, by rw [exec_clrkey_of_noPayload hinput, hend]⟩
  · intro hinput hnoKey
    rw [exec_clrkey_of_noPayload hinput, endCipher_of_noKey s hnoKey]

end Sys2Proof.Safety
end

section
/-! The laws of GF(2^8) and the commands GMUL and XTIME (spec/43_gf_arithmetic.md R120 to R124). -/

namespace Sys2Proof.Safety

open Sys2Proof Sys2Proof.Machine

/-! ## The inverses -/

/-- Doubling the second factor doubles the product, as doubling the first does. -/
theorem gmul_xtime_right (a b : Byte) : gmul a (xtime b) = xtime (gmul a b) := by
  rw [gmul_comm, gmul_xtime_left, gmul_comm]

/-- R124: `0x8D` doubled is 1, so multiplying by it halves. -/
theorem gmul_xtime_halve (a : Byte) : gmul (xtime a) 0x8D#8 = a := by
  have hhalf : xtime 0x8D#8 = 1#8 := by decide
  calc gmul (xtime a) 0x8D#8
    _ = gmul a (xtime 0x8D#8) := by rw [gmul_xtime_left, gmul_xtime_right]
    _ = a := by rw [hhalf, gmul_comm, gmul_one_left]

/-- The inverse of `a`, read off the S-box: FIPS 197 builds the S-box as the inverse followed by an affine map of the
bits, and this undoes the affine map. -/
def fieldInverse (a : Byte) : Byte :=
  (sbox a).rotateLeft 1 ^^^ (sbox a).rotateLeft 3 ^^^ (sbox a).rotateLeft 6 ^^^ 0x05#8

/-- R124: evaluated at each of the 255 bytes, since the S-box is a table. -/
theorem gmul_fieldInverse {a : Byte} (h : a ≠ 0#8) : gmul a (fieldInverse a) = 1#8 := by
  revert a
  decide +kernel

/-- Two factors that complete `a` to 1 are equal, by `y = (a * x) * y = (a * y) * x = x`. -/
theorem eq_of_gmul_eq_one {a x y : Byte} (hx : gmul a x = 1#8) (hy : gmul a y = 1#8) : y = x := by
  calc y
    _ = gmul (gmul a x) y := by rw [hx, gmul_one_left]
    _ = gmul (gmul a y) x := gmul_right_comm a x y
    _ = x := by rw [hy, gmul_one_left]

/-- Settles O38: the ring laws, `fieldInverse` as the inverse, and its uniqueness by cancelling. -/
theorem fieldLaws : Obligations.FieldLaws := fun a b c =>
  ⟨(gmul_comm a 0#8).trans (gmul_zero_left a), gmul_zero_left a,
    (gmul_comm a 1#8).trans (gmul_one_left a), gmul_one_left a,
    (gmul_comm a 2#8).trans (gmul_two_left a), (gmul_comm a 3#8).trans (gmul_three_left a),
    gmul_comm a b, gmul_xor_right a b c, gmul_assoc a b c,
    fun ha => ⟨fieldInverse a, gmul_fieldInverse ha, fun _ => eq_of_gmul_eq_one (gmul_fieldInverse ha)⟩,
    gmul_xtime_halve a⟩

/-! ## The product as a sum of doublings -/

/-- `p` with `a` doubled `i` times added when bit `i` of `b` is set. -/
def addDoubling (a b p : Byte) (i : Nat) : Byte := if b.getLsbD i then p ^^^ xtime^[i] a else p

/-- After one doubling and one shift, term `i` is the old term `i + 1`. -/
theorem addDoubling_xtime_shift (a b : Byte) :
    addDoubling (xtime a) (b >>> 1) = fun p i => addDoubling a b p (i + 1) := by
  funext p i
  rw [addDoubling, addDoubling, Function.iterate_succ_apply, BitVec.getLsbD_ushiftRight, Nat.add_comm 1 i]

/-- R121: `n` iterations add the terms of the lowest `n` bits. -/
theorem gmulLoop_eq_foldl (n : Nat) (p a b : Byte) :
    gmulLoop n p a b = (List.range n).foldl (addDoubling a b) p := by
  induction n generalizing p a b with
  | zero => rfl
  | succ n ih =>
    calc gmulLoop (n + 1) p a b
      _ = gmulLoop n (addDoubling a b p 0) (xtime a) (b >>> 1) := rfl
      _ = (List.range n).foldl (fun q i => addDoubling a b q (i + 1)) (addDoubling a b p 0) := by
        rw [ih, addDoubling_xtime_shift]
      _ = (List.range (n + 1)).foldl (addDoubling a b) p := by
        rw [List.range_succ_eq_map, List.foldl_cons, List.foldl_map]

/-- Settles O39: the loop's eight iterations, term by term. -/
theorem productIsSumOfDoublings : Obligations.ProductIsSumOfDoublings :=
  fun a b => gmulLoop_eq_foldl 8 0x00#8 a b

/-! ## The commands -/

/-- R122: the body of GMUL, after its checks of the payload. -/
theorem exec_gmul (a b : Byte) (s : State) :
    exec (.gmul a b) s = finish s (afterNoPayload s (.ok (s, [gmul a b]))) := rfl

/-- R123: the body of XTIME, after its checks of the payload. -/
theorem exec_xtime (a : Byte) (s : State) :
    exec (.xtime a) s = finish s (afterNoPayload s (.ok (s, [xtime a]))) := rfl

/-- R120: bit 7 is set from 128 on, and only then the reduction is added. -/
theorem xtime_eq_shift_xor (a : Byte) : xtime a = (a <<< 1) ^^^ (if a.toNat < 128 then 0x00#8 else 0x1B#8) := by
  have hbit : a.getLsbD 7 = decide (128 ≤ a.toNat) := by
    rw [← BitVec.msb_eq_getLsbD_last (x := a), BitVec.msb_eq_decide]
  simp only [xtime, hbit, decide_eq_true_eq]
  by_cases h : a.toNat < 128
  · rw [if_neg (Nat.not_le.2 h), if_pos h, BitVec.xor_zero]
  · rw [if_pos (Nat.not_lt.1 h), if_neg h]

/-- Settles O18: after the payload checks both commands answer one byte, whatever their operands. -/
theorem fieldCommandsAnswer : Obligations.FieldCommandsAnswer := by
  refine fun s a b => ⟨oneWord_of_encode_eq rfl, checksPayload_of_afterNoPayload (exec_gmul a b s), fun hinput => ?_,
    oneWord_of_encode_eq rfl, checksPayload_of_afterNoPayload (exec_xtime a s), fun hinput => ?_⟩
  · rw [exec_gmul, afterNoPayload_of_empty _ hinput, finish_ok]
  · rw [exec_xtime, afterNoPayload_of_empty _ hinput, finish_ok, xtime_eq_shift_xor]

end Sys2Proof.Safety
end

section
/-! Single-block encryption and decryption: each round undone by its inverse round, and the known-answer vector
(spec/44_cipher_block.md R130, R131, R134, R135). -/

namespace Sys2Proof.Safety

open Sys2Proof Sys2Proof.Machine

/-! ## The rounds undo each other -/

@[simp] theorem decryptRound_encryptRound (K X : Block) : decryptRound K (encryptRound K X) = X := by
  simp [decryptRound, encryptRound]

@[simp] theorem encryptRound_decryptRound (K X : Block) : encryptRound K (decryptRound K X) = X := by
  simp [decryptRound, encryptRound]

@[simp] theorem decryptFirstRound_encryptLastRound (K X : Block) :
    decryptFirstRound K (encryptLastRound K X) = X := by
  simp [decryptFirstRound, encryptLastRound]

@[simp] theorem encryptLastRound_decryptFirstRound (K X : Block) :
    encryptLastRound K (decryptFirstRound K X) = X := by
  simp [decryptFirstRound, encryptLastRound]

/-- Settles O43: the eleven steps of one direction meet their inverses in the other, the innermost pair first. -/
theorem cipherInverts : Obligations.CipherInverts := by
  intro B RK
  constructor
  · simp only [encryptBlock, decryptBlock, decryptFirstRound_encryptLastRound, decryptRound_encryptRound,
      addRoundKey_addRoundKey]
  · simp only [encryptBlock, decryptBlock, addRoundKey_addRoundKey, encryptRound_decryptRound,
      encryptLastRound_decryptFirstRound]

/-- Settles O44: the three Blocks are the transposes of the strings, and the encryption is evaluated. -/
theorem knownAnswerVector : Obligations.KnownAnswerVector := by
  refine ⟨_, _, _, rfl, rfl, rfl, ?_⟩
  decide +kernel

end Sys2Proof.Safety
end

section
/-! The commands ENCBLK and DECBLK, and the sequences of transform commands they equal in effect
(spec/44_cipher_block.md R130 to R133). -/

namespace Sys2Proof.Safety

open Sys2Proof Sys2Proof.Machine

/-! ## The two commands -/

/-- The body of a command that replaces `S` by a function of `S` and the key schedule, after its checks of the payload:
the key check, then the write. -/
def cipherBody (f : Block → Vector Block 11 → Block) (s : State) : Except FaultCode (State × Bytes) :=
  keySchedule s >>= fun rk => .ok (writeS (f s.S rk) s, [])

/-- R132. -/
theorem exec_encblk (s : State) : exec .encblk s = finish s (afterNoPayload s (cipherBody encryptBlock s)) := rfl

/-- R133. -/
theorem exec_decblk (s : State) : exec .decblk s = finish s (afterNoPayload s (cipherBody decryptBlock s)) := rfl

/-- The claims about a command with a `cipherBody`: its only word, its payload checks, NoKey, and its effect. -/
theorem claims_of_cipherBody {i : Instr} {w : CommandWord} {f : Block → Vector Block 11 → Block} {s : State}
    (hword : encode i = w) (hexec : exec i s = finish s (afterNoPayload s (cipherBody f s))) :
    OneWord i w ∧ ChecksPayload i 0 3 s ∧
    (s.input = [] → s.KEYV = false → exec i s = .next (faulted s 6)) ∧
    (s.input = [] → s.KEYV = true → exec i s = .next (completed { s with S := f s.S s.RK } [])) := by
  refine ⟨oneWord_of_encode_eq hword, checksPayload_of_afterNoPayload hexec, fun hinput hnoKey => ?_,
    fun hinput hkey => ?_⟩
  · rw [hexec, afterNoPayload_of_empty _ hinput, cipherBody, keySchedule_of_noKey hnoKey, bind_error_eq, finish_error,
      codeNumber]
  · rw [hexec, afterNoPayload_of_empty _ hinput, cipherBody, keySchedule_of_key hkey, bind_ok_eq, finish_ok, writeS]

/-- Settles O19: after the payload checks both commands are the key check and the write of `S`. -/
theorem cipherBlockCommands : Obligations.CipherBlockCommands := by
  intro s
  obtain ⟨hword, hchecks, hnoKey, hkey⟩ := claims_of_cipherBody (w := 0x40000000#32) (by decide) (exec_encblk s)
  exact ⟨hword, hchecks, hnoKey, hkey, claims_of_cipherBody (by decide) (exec_decblk s)⟩

/-! ## Sequences of transform commands -/

/-- In every state with a key and an empty payload the commands complete, replace `S` by `f RK S` and leave everything
else but the responses as it was. -/
def RunsAs (is : List Instr) (f : Vector Block 11 → Block → Block) : Prop :=
  ∀ s : State, s.input = [] → s.KEYV = true →
    ∃ rs, execAll is s = .next { s with S := f s.RK s.S, responses := rs }

theorem execAll_append {is : List Instr} {s t : State} (h : execAll is s = .next t) (js : List Instr) :
    execAll (is ++ js) s = execAll js t := by
  induction is generalizing s with
  | nil =>
    cases h
    rfl
  | cons i is ih =>
    obtain ⟨u, hu, _⟩ := exec_ends i s
    simp only [execAll, hu] at h
    simpa only [List.cons_append, execAll, hu] using ih h

theorem RunsAs.nil : RunsAs [] fun _ B => B := fun s _ _ => ⟨s.responses, rfl⟩

theorem RunsAs.append {is js : List Instr} {f g : Vector Block 11 → Block → Block} (his : RunsAs is f)
    (hjs : RunsAs js g) : RunsAs (is ++ js) fun RK B => g RK (f RK B) := by
  intro s hinput hkey
  obtain ⟨rs, hs⟩ := his s hinput hkey
  obtain ⟨rs', hs'⟩ := hjs { s with S := f s.RK s.S, responses := rs } hinput hkey
  exact ⟨rs', (execAll_append hs js).trans hs'⟩

/-- Groups of commands run one group after the other, one group for each element of a list. -/
theorem RunsAs.flatMap {α : Type} {is : α → List Instr} {f : α → Vector Block 11 → Block → Block}
    (h : ∀ k, RunsAs (is k) (f k)) (ks : List α) :
    RunsAs (ks.flatMap is) fun RK B => ks.foldl (fun X k => f k RK X) B := by
  induction ks with
  | nil => exact .nil
  | cons k ks ih => exact (h k).append ih

/-- One command; its empty payload is gone before and after it. -/
theorem RunsAs.of_exec {i : Instr} {f : Vector Block 11 → Block → Block}
    (h : ∀ s : State, s.input = [] → s.KEYV = true → exec i s = .next (completed { s with S := f s.RK s.S } [])) :
    RunsAs [i] f := by
  intro s hinput hkey
  refine ⟨s.responses ++ [⟨0x00#8, []⟩], ?_⟩
  rw [execAll, h s hinput hkey, completed, ← hinput]
  rfl

/-- R98 to R103, as a sequence of one command. -/
theorem RunsAs.of_transformS {i : Instr} {f : Block → Block} (hexec : ∀ s, exec i s = transformS f s) :
    RunsAs [i] fun _ B => f B := by
  refine .of_exec fun s hinput _ => ?_
  obtain ⟨_, _, heffect⟩ := claims_of_transformS rfl (hexec s)
  exact heffect hinput

/-- ADDRK of round key `k`. -/
def addrkOf (k : Fin 11) : Instr := .addrk (BitVec.ofNat 8 k.val)

/-- R104, as a sequence of one command. -/
theorem runsAs_addrkOf (k : Fin 11) : RunsAs [addrkOf k] fun RK B => addRoundKey B RK[k] := by
  refine .of_exec fun s hinput hkey => ?_
  have hindex : (BitVec.ofNat 8 k.val).toNat = k.val := by
    rw [BitVec.toNat_ofNat]
    omega
  obtain ⟨_, _, _, _, heffect, _⟩ := addRoundKeyCommands s (BitVec.ofNat 8 k.val)
  exact heffect k hinput hindex hkey

/-! ## The rounds as commands -/

/-- The commands of round `k` of encryption (R132). -/
def encryptRoundCommands (k : Fin 11) : List Instr := [.subbytes, .shiftrows, .mixcolumns, addrkOf k]

/-- The commands of round `k` of decryption (R133). -/
def decryptRoundCommands (k : Fin 11) : List Instr := [addrkOf k, .invmixcolumns, .invshiftrows, .invsubbytes]

theorem runsAs_subbytes : RunsAs [.subbytes] fun _ B => subBytes B := .of_transformS fun _ => rfl

theorem runsAs_invsubbytes : RunsAs [.invsubbytes] fun _ B => invSubBytes B := .of_transformS fun _ => rfl

theorem runsAs_shiftrows : RunsAs [.shiftrows] fun _ B => shiftRows B := .of_transformS fun _ => rfl

theorem runsAs_invshiftrows : RunsAs [.invshiftrows] fun _ B => invShiftRows B := .of_transformS fun _ => rfl

theorem runsAs_mixcolumns : RunsAs [.mixcolumns] fun _ B => mixColumns B := .of_transformS fun _ => rfl

theorem runsAs_invmixcolumns : RunsAs [.invmixcolumns] fun _ B => invMixColumns B := .of_transformS fun _ => rfl

theorem runsAs_encryptRound (k : Fin 11) : RunsAs (encryptRoundCommands k) fun RK B => encryptRound RK[k] B :=
  runsAs_subbytes.append (runsAs_shiftrows.append (runsAs_mixcolumns.append (runsAs_addrkOf k)))

theorem runsAs_encryptLastRound (k : Fin 11) :
    RunsAs [.subbytes, .shiftrows, addrkOf k] fun RK B => encryptLastRound RK[k] B :=
  runsAs_subbytes.append (runsAs_shiftrows.append (runsAs_addrkOf k))

theorem runsAs_decryptRound (k : Fin 11) : RunsAs (decryptRoundCommands k) fun RK B => decryptRound RK[k] B :=
  (runsAs_addrkOf k).append (runsAs_invmixcolumns.append (runsAs_invshiftrows.append runsAs_invsubbytes))

theorem runsAs_decryptFirstRound (k : Fin 11) :
    RunsAs [addrkOf k, .invshiftrows, .invsubbytes] fun RK B => decryptFirstRound RK[k] B :=
  (runsAs_addrkOf k).append (runsAs_invshiftrows.append runsAs_invsubbytes)

/-! ## The cipher as commands -/

/-- R132: the key, rounds 1 to 9, round 10. -/
theorem runsAs_encryptSequence : RunsAs encryptSequence fun RK B => encryptBlock B RK :=
  ((runsAs_addrkOf 0).append (.flatMap runsAs_encryptRound [1, 2, 3, 4, 5, 6, 7, 8, 9])).append
    (runsAs_encryptLastRound 10)

/-- R133: round 10, rounds 9 to 1, the key. -/
theorem runsAs_decryptSequence : RunsAs decryptSequence fun RK B => decryptBlock B RK :=
  ((runsAs_decryptFirstRound 10).append (.flatMap runsAs_decryptRound [9, 8, 7, 6, 5, 4, 3, 2, 1])).append
    (runsAs_addrkOf 0)

/-- Settles O45: both sequences are their rounds one after the other, and each round is its commands. -/
theorem cipherIsTransformSequence : Obligations.CipherIsTransformSequence :=
  fun s hinput hkey => ⟨runsAs_encryptSequence s hinput hkey, runsAs_decryptSequence s hinput hkey⟩

end Sys2Proof.Safety
end

section
/-! The base64 codec: the text of a byte sequence has its length and decodes to the sequence
(spec/46_base64.md R161, R162, R163, R165). -/

namespace Sys2Proof.Machine

/-! ## The scan of a text -/

/-- R163: `val` undoes the alphabet. -/
@[simp] theorem charValue_alpha (v : BitVec 6) : charValue (alpha v) = some v := by
  revert v
  decide

@[simp] theorem scanText_alpha_cons (v : BitVec 6) (t : Bytes) : scanText (alpha v :: t) = v :: scanText t := by
  simp only [scanText, charValue_alpha]

@[simp] theorem scanText_padChar_cons (t : Bytes) : scanText (padChar :: t) = [] := rfl

/-! ## Bytes and six-bit values -/

/-- R161: the four values of a group of three bytes, put together, are the group. -/
theorem append_sextets (w : BitVec 24) :
    w.extractLsb' 18 6 ++ w.extractLsb' 12 6 ++ w.extractLsb' 6 6 ++ w.extractLsb' 0 6 = w := by
  rw [BitVec.extractLsb'_append_extractLsb'_eq_extractLsb' (by decide : 18 = 12 + 6),
    BitVec.extractLsb'_append_extractLsb'_eq_extractLsb' (by decide : 12 = 6 + 6),
    BitVec.extractLsb'_append_extractLsb'_eq_extractLsb' (by decide : 6 = 0 + 6)]
  exact BitVec.extractLsb'_eq_self

/-- R162: the bytes of a group of three, taken apart again. -/
theorem octets_append (x y z : Byte) :
    (x ++ y ++ z).extractLsb' 16 8 = x ∧ (x ++ y ++ z).extractLsb' 8 8 = y ∧ (x ++ y ++ z).extractLsb' 0 8 = z :=
  ⟨(BitVec.extractLsb'_append_eq_of_le (by decide)).trans BitVec.extractLsb'_append_eq_left,
    (BitVec.extractLsb'_append_eq_of_le (by decide)).trans BitVec.extractLsb'_append_eq_right,
    BitVec.extractLsb'_append_eq_right⟩

/-- R161, R162: a byte cut after its sixth bit, the two low bits at the head of the next value. -/
theorem append_two_of_next (x : Byte) (v : BitVec 4) :
    x.extractLsb' 2 6 ++ (x.extractLsb' 0 2 ++ v).extractLsb' 4 2 = x := by
  rw [BitVec.extractLsb'_append_eq_left,
    BitVec.extractLsb'_append_extractLsb'_eq_extractLsb' (by decide : 2 = 0 + 2)]
  exact BitVec.extractLsb'_eq_self

/-- R161, R162: a byte cut in the middle, each half in a value of its own. -/
theorem append_halves (y : Byte) (u v : BitVec 2) :
    (u ++ y.extractLsb' 4 4).extractLsb' 0 4 ++ (y.extractLsb' 0 4 ++ v).extractLsb' 2 4 = y := by
  rw [BitVec.extractLsb'_append_eq_right, BitVec.extractLsb'_append_eq_left,
    BitVec.extractLsb'_append_extractLsb'_eq_extractLsb' (by decide : 4 = 0 + 4)]
  exact BitVec.extractLsb'_eq_self

/-! ## Encoding and decoding -/

/-- R165: group by group, the decoder gives back what was encoded. -/
@[simp] theorem b64decode_b64encode (q : Bytes) : b64decode (b64encode q) = q := by
  unfold b64decode
  induction q using b64encode.induct with
  | case1 x y z rest ih =>
    obtain ⟨hx, hy, hz⟩ := octets_append x y z
    simp only [b64encode, scanText_alpha_cons, ungroup, append_sextets, hx, hy, hz, ih]
  | case2 x y =>
    simp only [b64encode, scanText_alpha_cons, scanText_padChar_cons, ungroup, append_two_of_next, append_halves]
  | case3 x => simp only [b64encode, scanText_alpha_cons, scanText_padChar_cons, ungroup, append_two_of_next]
  | case4 => rfl

/-- R161: four characters for every group of three bytes, a final shorter group included. -/
theorem length_b64encode (q : Bytes) : (b64encode q).length = 4 * ((q.length + 2) / 3) := by
  induction q using b64encode.induct with
  | case1 x y z rest ih =>
    simp only [b64encode, List.length_cons, ih]
    omega
  | case2 x y => simp [b64encode]
  | case3 x => simp [b64encode]
  | case4 => simp [b64encode]

end Sys2Proof.Machine
end

section
/-! Padding, chunking and ECB (spec/45_message_mode.md R140 to R145). A byte sequence of a multiple of 16 bytes is the
drain of a list of Blocks, so what is said of its blocks is read off that list. -/

namespace Sys2Proof.Safety

open Sys2Proof Sys2Proof.Machine

/-! ## Padding -/

/-- R140. -/
theorem length_pad (p : Bytes) : (pad p).length = 16 * ((p.length + 15) / 16) := by
  simp only [pad, List.length_append, List.length_replicate]
  omega

theorem length_pad_mod (p : Bytes) : (pad p).length % 16 = 0 := by
  rw [length_pad, Nat.mul_mod_right]

/-- Settles O48: the zeros that `pad` adds are a number taken modulo 16. -/
theorem paddingIsLeast : Obligations.PaddingIsLeast :=
  fun p => ⟨length_pad p, _, Nat.mod_lt _ (by decide), rfl⟩

/-- R140: the padded message is the only one of its length that follows the message with zeros. -/
theorem eq_pad_of_length {p : Bytes} {z : Nat} (h : p.length + z = (pad p).length) :
    p ++ List.replicate z 0x00#8 = pad p := by
  have hz : z = (16 - p.length % 16) % 16 := by
    simpa only [pad, List.length_append, List.length_replicate, Nat.add_left_cancel_iff] using h
  rw [pad, hz]

/-- R150: zeros that are as well part of the padding change nothing. -/
theorem pad_append_zeros {p : Bytes} {k : Nat} (h : (p.length + k + 15) / 16 = (p.length + 15) / 16) :
    pad (p ++ List.replicate k 0x00#8) = pad p := by
  have hlength : (pad (p ++ List.replicate k 0x00#8)).length = (pad p).length := by
    rw [length_pad, length_pad, List.length_append, List.length_replicate, h]
  obtain ⟨_, z, _, hpad⟩ := paddingIsLeast (p ++ List.replicate k 0x00#8)
  rw [hpad, List.append_assoc, List.replicate_append_replicate] at hlength ⊢
  exact eq_pad_of_length (by simpa using hlength)

/-- Settles O50: the text is computed from the padded message alone. -/
theorem paddingAmbiguity : Obligations.PaddingAmbiguity := by
  intro p k RK h
  rw [encryptText, encryptText, ecbEncryptBytes, ecbEncryptBytes, pad_append_zeros h]

/-! ## The blocks of a byte sequence -/

@[simp] theorem length_unchunk (Bs : List Block) : (unchunk Bs).length = 16 * Bs.length := by
  induction Bs with
  | nil => rfl
  | cons B Bs ih =>
    rw [unchunk, List.length_append, drain_length, ih, List.length_cons]
    omega

theorem take_unchunk_cons (B : Block) (Bs : List Block) : (unchunk (B :: Bs)).take 16 = drain B :=
  List.take_left' (drain_length B)

theorem drop_unchunk_cons (B : Block) (Bs : List Block) : (unchunk (B :: Bs)).drop 16 = unchunk Bs :=
  List.drop_left' (drain_length B)

/-- R141: `chunk` undoes `unchunk`. -/
@[simp] theorem chunk_unchunk (Bs : List Block) : chunk (unchunk Bs) = Bs := by
  rw [chunk, length_unchunk, Nat.mul_div_cancel_left _ (by decide)]
  induction Bs with
  | nil => rfl
  | cons B Bs ih =>
    rw [List.length_cons, chunkLoop, take_unchunk_cons, drop_unchunk_cons, fill_drain, ih]
    rfl

/-- R141: a sequence of a multiple of 16 bytes is made of Blocks. -/
theorem exists_unchunk_eq {q : Bytes} (h : q.length % 16 = 0) : ∃ Bs : List Block, unchunk Bs = q := by
  obtain ⟨m, hm⟩ := Nat.dvd_of_mod_eq_zero h
  induction m generalizing q with
  | zero => exact ⟨[], (List.eq_nil_of_length_eq_zero hm).symm⟩
  | succ m ih =>
    obtain ⟨B, hB⟩ := exists_drain_eq (q := q.take 16) (by simp; omega)
    obtain ⟨Bs, hBs⟩ := ih (q := q.drop 16) (by simp; omega) (by simp; omega)
    exact ⟨B :: Bs, by rw [unchunk, hB, hBs, List.take_append_drop]⟩

/-- R141: block `j` of the sequence is the Block at place `j`. -/
theorem blockAt_unchunk (Bs : List Block) (j : Nat) : blockAt (unchunk Bs) j = Bs[j]? := by
  induction Bs generalizing j with
  | nil => simp [blockAt, unchunk, fill]
  | cons B Bs ih =>
    cases j with
    | zero => rw [blockAt, Nat.mul_zero, List.drop_zero, take_unchunk_cons, fill_drain, List.getElem?_cons_zero]
    | succ j =>
      rw [List.getElem?_cons_succ, ← ih, blockAt, blockAt, Nat.mul_add, Nat.add_comm, ← List.drop_drop,
        Nat.mul_one, drop_unchunk_cons]

/-! ## Electronic codebook -/

/-- R142, R143: a function of Blocks applied to every block of a byte sequence. -/
def mapBlocks (f : Block → Block) (q : Bytes) : Bytes := unchunk ((chunk q).map f)

theorem ecbEncryptBytes_eq (p : Bytes) (RK : Vector Block 11) :
    ecbEncryptBytes p RK = mapBlocks (fun B => encryptBlock B RK) (pad p) := rfl

theorem ecbDecryptBytes_eq (c : Bytes) (RK : Vector Block 11) :
    ecbDecryptBytes c RK = mapBlocks (fun C => decryptBlock C RK) c := rfl

@[simp] theorem mapBlocks_unchunk (f : Block → Block) (Bs : List Block) :
    mapBlocks f (unchunk Bs) = unchunk (Bs.map f) := by
  rw [mapBlocks, chunk_unchunk]

theorem length_mapBlocks (f : Block → Block) {q : Bytes} (h : q.length % 16 = 0) :
    (mapBlocks f q).length = q.length := by
  obtain ⟨Bs, rfl⟩ := exists_unchunk_eq h
  simp

theorem blockAt_mapBlocks (f : Block → Block) {q : Bytes} (h : q.length % 16 = 0) (j : Nat) :
    blockAt (mapBlocks f q) j = (blockAt q j).map f := by
  obtain ⟨Bs, rfl⟩ := exists_unchunk_eq h
  rw [mapBlocks_unchunk, blockAt_unchunk, blockAt_unchunk, List.getElem?_map]

/-- A function of Blocks is undone on every block by its inverse. -/
theorem mapBlocks_mapBlocks_cancel {f g : Block → Block} (hgf : ∀ B, g (f B) = B) {q : Bytes}
    (h : q.length % 16 = 0) : mapBlocks g (mapBlocks f q) = q := by
  obtain ⟨Bs, rfl⟩ := exists_unchunk_eq h
  simp [Function.comp_def, hgf]

theorem length_ecbEncryptBytes (p : Bytes) (RK : Vector Block 11) :
    (ecbEncryptBytes p RK).length = (pad p).length :=
  length_mapBlocks _ (length_pad_mod p)

theorem length_ecbDecryptBytes {c : Bytes} (RK : Vector Block 11) (h : c.length % 16 = 0) :
    (ecbDecryptBytes c RK).length = c.length :=
  length_mapBlocks _ h

/-- Settles O49: both directions apply their function of Blocks to every block. -/
theorem blocksIndependent : Obligations.BlocksIndependent := fun p _ RK =>
  ⟨length_ecbEncryptBytes p RK, blockAt_mapBlocks _ (length_pad_mod p),
    fun h => ⟨length_ecbDecryptBytes RK h, blockAt_mapBlocks _ h⟩⟩

/-- R148, on the ciphertext bytes. -/
theorem ecbDecryptBytes_ecbEncryptBytes (p : Bytes) (RK : Vector Block 11) :
    ecbDecryptBytes (ecbEncryptBytes p RK) RK = pad p :=
  mapBlocks_mapBlocks_cancel (fun B => (cipherInverts B RK).1) (length_pad_mod p)

/-! ## Texts -/

theorem decryptText_of_malformed {t : Bytes} (RK : Vector Block 11) (h : (b64decode t).length % 16 ≠ 0) :
    decryptText t RK = none :=
  if_pos h

theorem decryptText_of_aligned {t : Bytes} (RK : Vector Block 11) (h : (b64decode t).length % 16 = 0) :
    decryptText t RK = some (ecbDecryptBytes (b64decode t) RK) :=
  if_neg (not_not_intro h)

/-- R148: the text of a message decrypts to the padded message. -/
theorem decryptText_encryptText (p : Bytes) (RK : Vector Block 11) :
    decryptText (encryptText p RK) RK = some (pad p) := by
  have hdecode : b64decode (encryptText p RK) = ecbEncryptBytes p RK := b64decode_b64encode _
  have haligned : (b64decode (encryptText p RK)).length % 16 = 0 := by
    rw [hdecode, length_ecbEncryptBytes, length_pad_mod]
  rw [decryptText_of_aligned RK haligned, hdecode, ecbDecryptBytes_ecbEncryptBytes]

/-- Settles O51: the text encodes as many bytes as the padded message has, and a decryption that succeeds keeps the
decoded length. -/
theorem messageLengths : Obligations.MessageLengths := by
  refine fun p t out RK => ⟨?_, fun hout => ?_⟩
  · rw [encryptText, length_b64encode, length_ecbEncryptBytes, length_pad]
  · by_cases haligned : (b64decode t).length % 16 = 0
    · rw [decryptText_of_aligned RK haligned] at hout
      cases hout
      rw [length_ecbDecryptBytes RK haligned]
      exact ⟨rfl, haligned⟩
    · rw [decryptText_of_malformed RK haligned] at hout
      cases hout

end Sys2Proof.Safety
end

section
/-! The commands ENCRYPT and DECRYPT (spec/45_message_mode.md R146 to R148). -/

namespace Sys2Proof.Safety

open Sys2Proof Sys2Proof.Machine

/-! ## The checks -/

/-- The body of a command that takes a payload of any length and needs a key: the two checks, then the rest `g` on the
key schedule. -/
def afterKey (s : State) (g : Vector Block 11 → Except FaultCode (State × Bytes)) : Except FaultCode (State × Bytes) := do
  checkOverrun s
  let rk ← keySchedule s
  g rk

theorem afterKey_of_key {s : State} (g : Vector Block 11 → Except FaultCode (State × Bytes)) (hfits : ¬ Overruns s)
    (hkey : s.KEYV = true) : afterKey s g = g s.RK := by
  simp [afterKey, checkOverrun_of_not hfits, keySchedule_of_key hkey]

/-- R198: Overrun, then NoKey. -/
theorem faults_of_afterKey {i : Instr} {s : State} {g : Vector Block 11 → Except FaultCode (State × Bytes)}
    (hexec : exec i s = finish s (afterKey s g)) :
    (Overruns s → exec i s = .next (faulted s 2)) ∧
    (¬ Overruns s → s.KEYV = false → exec i s = .next (faulted s 6)) := by
  refine ⟨fun hover => ?_, fun hfits hnoKey => ?_⟩ <;> rw [hexec]
  · have hbody : afterKey s g = .error .overrun := by simp [afterKey, checkOverrun_of hover]
    rw [hbody, finish_error, codeNumber]
  · have hbody : afterKey s g = .error .noKey := by
      simp [afterKey, checkOverrun_of_not hfits, keySchedule_of_noKey hnoKey]
    rw [hbody, finish_error, codeNumber]

/-! ## ENCRYPT -/

/-- R146: the body of ENCRYPT, after its checks. -/
theorem exec_encrypt (s : State) :
    exec .encrypt s = finish s (afterKey s fun rk => .ok (s, encryptText s.input rk)) := rfl

theorem exec_encrypt_of_key {s : State} (hfits : ¬ Overruns s) (hkey : s.KEYV = true) :
    exec .encrypt s = .next (completed s (encryptText s.input s.RK)) := by
  rw [exec_encrypt, afterKey_of_key _ hfits hkey, finish_ok]

/-- Settles O20: after the two checks ENCRYPT is the text of its payload, whatever its length. -/
theorem encryptAnswersText : Obligations.EncryptAnswersText := by
  intro s
  obtain ⟨hoverrun, hnoKey⟩ := faults_of_afterKey (exec_encrypt s)
  exact ⟨oneWord_of_encode_eq (by decide), hoverrun, hnoKey, exec_encrypt_of_key⟩

/-! ## DECRYPT -/

/-- R147: the body of DECRYPT, after its checks. -/
theorem exec_decrypt (s : State) :
    exec .decrypt s = finish s (afterKey s fun rk => decryptedPayload rk s >>= fun p => .ok (s, p)) := rfl

theorem exec_decrypt_of_malformed {s : State} (hfits : ¬ Overruns s) (hkey : s.KEYV = true)
    (htext : decryptText s.input s.RK = none) : exec .decrypt s = .next (faulted s 7) := by
  have hpayload : decryptedPayload s.RK s = .error .decodeError := by simp only [decryptedPayload, htext]
  rw [exec_decrypt, afterKey_of_key _ hfits hkey, hpayload, bind_error_eq, finish_error, codeNumber]

theorem exec_decrypt_of_decryptText {s : State} {p : Bytes} (hfits : ¬ Overruns s) (hkey : s.KEYV = true)
    (htext : decryptText s.input s.RK = some p) : exec .decrypt s = .next (completed s p) := by
  have hpayload : decryptedPayload s.RK s = .ok p := by simp only [decryptedPayload, htext]
  rw [exec_decrypt, afterKey_of_key _ hfits hkey, hpayload, bind_ok_eq, finish_ok]

/-- Settles O21: after the two checks DECRYPT is the decryption of its text, which the decoded length alone makes
malformed. -/
theorem decryptAnswersBytes : Obligations.DecryptAnswersBytes := by
  intro s
  obtain ⟨hoverrun, hnoKey⟩ := faults_of_afterKey (exec_decrypt s)
  exact ⟨oneWord_of_encode_eq (by decide), hoverrun, hnoKey,
    fun hfits hkey hlength => exec_decrypt_of_malformed hfits hkey (decryptText_of_malformed s.RK hlength),
    fun hfits hkey hlength => exec_decrypt_of_decryptText hfits hkey (decryptText_of_aligned s.RK hlength)⟩

/-! ## The round trip -/

/-- Settles O52: the text that ENCRYPT answers decrypts to the padded message, so DECRYPT answers that; the state it ends
in keeps nothing of its payload. -/
theorem messageRoundTrip : Obligations.MessageRoundTrip := fun s hkey hfits =>
  have htext : decryptText (encryptText s.input s.RK) s.RK = some (pad s.input) := decryptText_encryptText s.input s.RK
  ⟨encryptText s.input s.RK, exec_encrypt_of_key hfits hkey, htext,
    fun hfitsText => exec_decrypt_of_decryptText hfitsText hkey htext⟩

end Sys2Proof.Safety
end

section
/-! The alphabet, the shape of a text and what the decoder reads of it (spec/46_base64.md R160 to R165, R168). -/

namespace Sys2Proof.Machine

/-! ## The alphabet -/

/-- R163: the alphabet undoes `val`, evaluated at each of the 256 bytes. -/
theorem alpha_of_charValue {x : Byte} {v : BitVec 6} (h : charValue x = some v) : alpha v = x := by
  have hall : ∀ x : Byte, ∀ v ∈ charValue x, alpha v = x := by decide +kernel
  exact hall x v h

/-- Settles O57: `val` and the alphabet undo each other; the string is evaluated. -/
theorem alphabetTable : Obligations.AlphabetTable :=
  ⟨by decide +kernel, charValue_alpha, fun _ _ => alpha_of_charValue, rfl⟩

/-! ## The shape of a text -/

/-- R161: a text is characters of the alphabet, then a pad character for each byte that the last group lacks. -/
theorem exists_b64encode_eq (q : Bytes) : ∃ vs : List (BitVec 6),
    b64encode q = vs.map alpha ++ List.replicate ((3 - q.length % 3) % 3) padChar := by
  induction q using b64encode.induct with
  | case1 x y z rest ih =>
    obtain ⟨vs, hvs⟩ := ih
    have hlength : (x :: y :: z :: rest).length % 3 = rest.length % 3 := Nat.add_mod_right rest.length 3
    rw [hlength, b64encode, hvs]
    exact ⟨_ :: _ :: _ :: _ :: vs, rfl⟩
  | case2 x y =>
    exact ⟨[x.extractLsb' 2 6, x.extractLsb' 0 2 ++ y.extractLsb' 4 4, y.extractLsb' 0 4 ++ 0#2], rfl⟩
  | case3 x => exact ⟨[x.extractLsb' 2 6, x.extractLsb' 0 2 ++ 0#4], rfl⟩
  | case4 => exact ⟨[], rfl⟩

/-- Settles O53: the body of the text is the alphabet's characters for some values. -/
theorem encodedTextShape : Obligations.EncodedTextShape := by
  intro q
  obtain ⟨vs, hvs⟩ := exists_b64encode_eq q
  refine ⟨length_b64encode q, vs.map alpha, hvs, fun x hx => ?_⟩
  obtain ⟨v, _, rfl⟩ := List.mem_map.mp hx
  exact ⟨v, charValue_alpha v⟩

/-- Settles O55: a canonical text is the text of what it decodes to. -/
theorem base64RoundTrip : Obligations.Base64RoundTrip := by
  refine ⟨b64decode_b64encode, fun t => ⟨fun h => ⟨b64decode t, h.symm⟩, ?_⟩⟩
  rintro ⟨q, rfl⟩
  rw [b64decode_b64encode]

/-! ## What the decoder reads -/

theorem scanText_cons_of_some {x : Byte} {v : BitVec 6} (t : Bytes) (h : charValue x = some v) :
    scanText (x :: t) = v :: scanText t := by
  simp only [scanText, h]

theorem scanText_cons_of_none {x : Byte} (t : Bytes) (h : charValue x = none) : scanText (x :: t) = [] := by
  simp only [scanText, h]

/-- R162: the scan ends for good at a byte outside the alphabet, or before it. -/
theorem scanText_append_of_none {x : Byte} (h : charValue x = none) (t u : Bytes) :
    scanText (t ++ x :: u) = scanText t := by
  induction t with
  | nil => exact scanText_cons_of_none u h
  | cons y t ih =>
    rw [List.cons_append]
    cases hy : charValue y with
    | none => rw [scanText_cons_of_none _ hy, scanText_cons_of_none _ hy]
    | some v => rw [scanText_cons_of_some _ hy, scanText_cons_of_some _ hy, ih]

/-- Settles O56: the bytes are those of the scan, which ends at `x` or before it. -/
theorem decoderStopsForGood : Obligations.DecoderStopsForGood := by
  intro t u x h
  rw [b64decode, b64decode, scanText_append_of_none h]

/-- R162: the scan reads one value from each of the leading characters of the alphabet. -/
theorem length_scanText (t : Bytes) :
    (scanText t).length = (t.takeWhile fun x => (charValue x).isSome).length := by
  induction t with
  | nil => rfl
  | cons x t ih =>
    cases hx : charValue x with
    | none => simp [scanText_cons_of_none t hx, hx]
    | some v => simp [scanText_cons_of_some t hx, hx, ih]

/-- R164: three bytes from four values; of the values left over, each but the first completes one byte. -/
theorem length_ungroup (vs : List (BitVec 6)) : (ungroup vs).length = 3 * (vs.length / 4) + (vs.length % 4 - 1) := by
  induction vs using ungroup.induct with
  | case1 a b c d rest ih =>
    simp only [ungroup, List.length_cons, ih]
    omega
  | case2 a b c => simp [ungroup]
  | case3 a b => simp [ungroup]
  | case4 a => simp [ungroup]
  | case5 => rfl

/-- Settles O54: the length of the scan gives the length of the bytes, and the scan is no longer than the text. -/
theorem decodedLength : Obligations.DecodedLength := by
  intro t
  have hprefix : (t.takeWhile fun x => (charValue x).isSome).length ≤ t.length := (List.takeWhile_prefix _).length_le
  rw [b64decode, length_ungroup, length_scanText]
  exact ⟨by omega, rfl⟩

end Sys2Proof.Machine
end

section
/-! The commands B64ENC and B64DEC (spec/46_base64.md R166, R167). -/

namespace Sys2Proof.Safety

open Sys2Proof Sys2Proof.Machine

/-- The body of a command that takes any payload within the limit and answers `f` of it. -/
def answerOfPayload (f : Bytes → Bytes) (s : State) : Except FaultCode (State × Bytes) := do
  checkOverrun s
  return (s, f s.input)

/-- R166. -/
theorem exec_b64enc (s : State) : exec .b64enc s = finish s (answerOfPayload b64encode s) := rfl

/-- R167. -/
theorem exec_b64dec (s : State) : exec .b64dec s = finish s (answerOfPayload b64decode s) := rfl

/-- The claims about a command whose body is an `answerOfPayload`: its only word, Overrun, and its answer. -/
theorem claims_of_answerOfPayload {i : Instr} {w : CommandWord} {f : Bytes → Bytes} {s : State}
    (hword : encode i = w) (hexec : exec i s = finish s (answerOfPayload f s)) :
    OneWord i w ∧ (Overruns s → exec i s = .next (faulted s 2)) ∧
    (¬ Overruns s → exec i s = .next (completed s (f s.input))) := by
  refine ⟨oneWord_of_encode_eq hword, fun hover => ?_, fun hfits => ?_⟩ <;> rw [hexec, answerOfPayload]
  · rw [checkOverrun_of hover, bind_error_eq, finish_error, codeNumber]
  · rw [checkOverrun_of_not hfits, bind_ok_eq, pure_eq_ok, finish_ok]

/-- Settles O22: both commands answer a function of the payload, after the one check. -/
theorem base64Commands : Obligations.Base64Commands := by
  intro s
  obtain ⟨hword, hoverrun, hanswer⟩ := claims_of_answerOfPayload (w := 0x60000000#32) (by decide) (exec_b64enc s)
  exact ⟨hword, hoverrun, hanswer, claims_of_answerOfPayload (by decide) (exec_b64dec s)⟩

end Sys2Proof.Safety
end

section
/-! RDSTAT (spec/47_status.md R180). -/

namespace Sys2Proof.Safety

open Sys2Proof Sys2Proof.Machine

/-- R180: the body of RDSTAT, after its checks of the payload. -/
theorem exec_rdstat (s : State) :
    exec .rdstat s = finish s (afterNoPayload s (.ok (s, [statusView s, faultsView s]))) := rfl

/-- R26: in a state whose reserved bit is 0 the byte read is the mask itself. -/
theorem faultsView_of_reserved {s : State} (h : FaultsReserved s) : faultsView s = s.FAULTS := by
  have hbit : s.FAULTS.getLsbD 0 = false := h
  apply BitVec.eq_of_getLsbD_eq
  intro k hk
  rw [faultsView, BitVec.getLsbD_and]
  interval_cases k
  · simpa using hbit
  all_goals simp

/-- Settles O23: after the payload checks RDSTAT is the read of the two views, and the view of `FAULTS` masks only the
reserved bit. -/
theorem readStatus : Obligations.ReadStatus := by
  refine fun s => ⟨oneWord_of_encode_eq (by decide), checksPayload_of_afterNoPayload (exec_rdstat s),
    exec_rdstat_of_noPayload, fun hinput hreserved => ?_⟩
  rw [exec_rdstat_of_noPayload hinput, faultsView_of_reserved hreserved, statusView]

end Sys2Proof.Safety
end

section
/-! Which fault a command reports (spec/60_exceptions.md R191 to R198): each check fails exactly when its own cause holds,
and a body runs its checks in the order of their codes, so the first that fails has the least code. -/

namespace Sys2Proof.Safety

open Sys2Proof Sys2Proof.Machine

/-! ## A check and its cause -/

/-- The check `x` answers the fault `f` exactly when the cause `P` holds. -/
structure ChecksCause {α : Type} (f : FaultCode) (P : Prop) (x : Except FaultCode α) : Prop where
  fails : P → x = .error f
  passes : ¬ P → ∃ a, x = .ok a

/-- R192. -/
theorem checksCause_checkOverrun (s : State) : ChecksCause .overrun (Overruns s) (checkOverrun s) :=
  ⟨checkOverrun_of, fun h => ⟨(), checkOverrun_of_not h⟩⟩

/-- R193, for a command without payload. -/
theorem checksCause_checkNoPayload (s : State) :
    ChecksCause .lengthError (s.input.length ≠ 0) (checkNoPayload s) :=
  ⟨checkNoPayload_of_ne, fun h => ⟨(), checkNoPayload_of_eq (not_not.1 h)⟩⟩

/-- R193 and R194, for a command that takes a Block. -/
theorem checksCause_payloadBlock (f : FaultCode) (s : State) :
    ChecksCause f (s.input.length ≠ 16) (payloadBlock f s) := by
  refine ⟨payloadBlock_of_ne, fun h => ?_⟩
  obtain ⟨B, hfill⟩ := exists_fill_eq (not_not.1 h)
  exact ⟨B, payloadBlock_of_fill hfill⟩

/-- R195, for GET and SET. -/
theorem checksCause_cellIndex (a b : Byte) :
    ChecksCause .indexError (3 < a.toNat ∨ 3 < b.toNat) (cellIndex a b) := by
  refine ⟨cellIndex_of_above, fun h => ?_⟩
  obtain ⟨ha, hb⟩ := not_or.1 h
  exact ⟨(⟨a.toNat, by omega⟩, ⟨b.toNat, by omega⟩), cellIndex_of_eq rfl rfl⟩

/-- R195, for ADDRK and GETRK. -/
theorem checksCause_roundKeyIndex (a : Byte) : ChecksCause .indexError (10 < a.toNat) (roundKeyIndex a) :=
  ⟨roundKeyIndex_of_above, fun h => ⟨⟨a.toNat, by omega⟩, roundKeyIndex_of_eq rfl⟩⟩

/-- R196. -/
theorem checksCause_keySchedule (s : State) : ChecksCause .noKey (s.KEYV = false) (keySchedule s) :=
  ⟨keySchedule_of_noKey, fun h => ⟨s.RK, keySchedule_of_key ((Bool.not_eq_false _).mp h)⟩⟩

/-- R197. -/
theorem checksCause_decryptedPayload (rk : Vector Block 11) (s : State) :
    ChecksCause .decodeError ((b64decode s.input).length % 16 ≠ 0) (decryptedPayload rk s) := by
  refine ⟨fun h => ?_, fun h => ⟨ecbDecryptBytes (b64decode s.input) rk, ?_⟩⟩
  · rw [decryptedPayload, decryptText_of_malformed rk h]
  · rw [decryptedPayload, decryptText_of_aligned rk (not_not.1 h)]

/-! ## The least of the causes of a body -/

theorem le_of_cause {c k : Nat} {P : Prop} (h : c ≤ k) (n : Nat) (hn : n = k ∧ P) : c ≤ n := hn.1 ▸ h

/-- A bound of the first code of a body bounds the codes of the rest, which are not below the first. -/
theorem le_of_cause_or {c k : Nat} {P : Prop} {B : Nat → Prop} (h : c ≤ k) (hrest : ∀ n, B n → k ≤ n) (n : Nat)
    (hn : (n = k ∧ P) ∨ B n) : c ≤ n :=
  hn.elim (le_of_cause h n) fun hB => h.trans (hrest n hB)

/-- What the body of a command comes to when the codes with a cause are those of `A`: an answer after one of the writes
when there is no such code, else the fault with the least of them. -/
inductive Verdict (s : State) (A : Nat → Prop) : Except FaultCode (State × Bytes) → Prop where
  | answer (t : State) (out : Bytes) (ht : Effect s t) (hnone : ∀ n, ¬ A n) : Verdict s A (.ok (t, out))
  | fault (f : FaultCode) (hcause : A (codeNumber f)) (hleast : ∀ n, A n → codeNumber f ≤ n) : Verdict s A (.error f)

namespace Verdict

variable {s : State} {A B : Nat → Prop} {r : Except FaultCode (State × Bytes)}

theorem congr (h : Verdict s A r) (hAB : ∀ n, A n ↔ B n) : Verdict s B r :=
  (funext fun n => propext (hAB n) : A = B) ▸ h

/-- The end of a body, after its last check. -/
theorem of_effect {t : State} {out : Bytes} (ht : Effect s t) : Verdict s (fun _ => False) (.ok (t, out)) :=
  .answer t out ht fun _ => id

/-- One check before the rest of a body: its cause joins those of the rest, whose codes are not below its own. -/
theorem check {α : Type} {f : FaultCode} {P : Prop} {x : Except FaultCode α}
    {g : α → Except FaultCode (State × Bytes)} (hx : ChecksCause f P x) (hrest : ∀ n, B n → codeNumber f ≤ n)
    (hg : ∀ a, Verdict s B (g a)) : Verdict s (fun n => (n = codeNumber f ∧ P) ∨ B n) (x >>= g) := by
  by_cases hP : P
  · rw [hx.fails hP]
    exact .fault f (.inl ⟨rfl, hP⟩) (le_of_cause_or le_rfl hrest)
  · obtain ⟨a, ha⟩ := hx.passes hP
    rw [ha]
    exact (hg a).congr fun n => by simp [hP]

/-- The last check of a body. -/
theorem lastCheck {α : Type} {f : FaultCode} {P : Prop} {x : Except FaultCode α}
    {g : α → Except FaultCode (State × Bytes)} (hx : ChecksCause f P x)
    (hg : ∀ a, Verdict s (fun _ => False) (g a)) : Verdict s (fun n => n = codeNumber f ∧ P) (x >>= g) :=
  (check hx (fun _ => False.elim) hg).congr fun n => by rw [or_false]

/-- Steps 2 and 3 of R198 for a command without payload. -/
theorem of_afterNoPayload (hrest : ∀ n, B n → 3 ≤ n) (hr : Verdict s B r) :
    Verdict s (fun n => (n = 2 ∧ Overruns s) ∨ (n = 3 ∧ s.input.length ≠ 0) ∨ B n) (afterNoPayload s r) :=
  check (checksCause_checkOverrun s) (le_of_cause_or (by decide) hrest)
    fun _ => check (checksCause_checkNoPayload s) hrest fun _ => hr

/-- Steps 2 and 3 of R198 for a command that takes a Block and then completes. -/
theorem of_afterBlockPayload {f : FaultCode} {g : Block → Except FaultCode (State × Bytes)} (hf : 2 ≤ codeNumber f)
    (hg : ∀ K, Verdict s (fun _ => False) (g K)) :
    Verdict s (fun n => (n = 2 ∧ Overruns s) ∨ (n = codeNumber f ∧ s.input.length ≠ 16)) (afterBlockPayload f s g) :=
  check (checksCause_checkOverrun s) (le_of_cause hf) fun _ => lastCheck (checksCause_payloadBlock f s) hg

/-- Steps 2 and 5 of R198 for a command that takes any payload and needs a key. -/
theorem of_afterKey {g : Vector Block 11 → Except FaultCode (State × Bytes)} (hrest : ∀ n, B n → 6 ≤ n)
    (hg : ∀ rk, Verdict s B (g rk)) :
    Verdict s (fun n => (n = 2 ∧ Overruns s) ∨ (n = 6 ∧ s.KEYV = false) ∨ B n) (afterKey s g) :=
  check (checksCause_checkOverrun s) (le_of_cause_or (by decide) hrest)
    fun _ => check (checksCause_keySchedule s) hrest hg

/-- Step 2 of R198 for a command that answers a function of any payload. -/
theorem of_answerOfPayload (f : Bytes → Bytes) : Verdict s (fun n => n = 2 ∧ Overruns s) (answerOfPayload f s) :=
  lastCheck (checksCause_checkOverrun s) fun _ => of_effect .none

end Verdict

/-! ## The commands -/

/-- R198: every command is a body, and the causes of its checks are the faults that apply to it. -/
theorem exec_verdict (i : Instr) (s : State) :
    ∃ r, exec i s = finish s r ∧ Verdict s (FaultApplies i s) r := by
  cases i
  case' stblk | subbytes | invsubbytes | shiftrows | invshiftrows | mixcolumns | invmixcolumns | clrkey | gmul
    | xtime | rdstat =>
    refine ⟨_, rfl, (Verdict.of_afterNoPayload (fun _ => False.elim)
      (.of_effect (by constructor))).congr fun n => ?_⟩
  case' get a b | set a b _ =>
    refine ⟨_, rfl, (Verdict.of_afterNoPayload (le_of_cause (by decide))
      (.lastCheck (checksCause_cellIndex a b) fun _ => .of_effect (by constructor))).congr fun n => ?_⟩
  case' addrk a | getrk a =>
    refine ⟨_, rfl, (Verdict.of_afterNoPayload (le_of_cause_or (by decide) (le_of_cause (by decide)))
      (.check (checksCause_roundKeyIndex a) (le_of_cause (by decide))
        fun _ => .lastCheck (checksCause_keySchedule s) fun _ => .of_effect (by constructor))).congr fun n => ?_⟩
  case' encblk | decblk =>
    refine ⟨_, rfl, (Verdict.of_afterNoPayload (le_of_cause (by decide))
      (.lastCheck (checksCause_keySchedule s) fun _ => .of_effect (by constructor))).congr fun n => ?_⟩
  case' ldblk | addrki | setkey =>
    refine ⟨_, rfl, (Verdict.of_afterBlockPayload (by decide) fun K => .of_effect (by constructor)).congr fun n => ?_⟩
  case' encrypt =>
    refine ⟨_, rfl, (Verdict.of_afterKey (fun _ => False.elim) fun _ => .of_effect .none).congr fun n => ?_⟩
  case' decrypt =>
    refine ⟨_, rfl, (Verdict.of_afterKey (le_of_cause (by decide)) fun rk =>
      .lastCheck (checksCause_decryptedPayload rk s) fun _ => .of_effect .none).congr fun n => ?_⟩
  case' b64enc | b64dec =>
    refine ⟨_, rfl, (Verdict.of_answerOfPayload _).congr fun n => ?_⟩
  all_goals simp [FaultApplies, requiredLength, needsKey, Instr.wellFormed, codeNumber, imp_iff_not_or]

/-! ## Illegal words -/

/-- R191: a word that decodes to no command is IllegalCommand, whatever its payload. -/
theorem step_of_not_decodes {s : State} {cw : CommandWord} {p : Bytes} {rest : List HostAction}
    (hpending : s.pending = .command cw p :: rest) (hdecode : ∀ i, decode cw ≠ .ok i) :
    step s = .next (faulted { s with pending := rest } 1) := by
  match h : decode cw with
  | .ok i => exact absurd h (hdecode i)
  | .error e => exact (step_of_decode_error hpending h).trans (congrArg _ (raise_eq_faulted .illegalCommand _))

/-- Settles O5: a word that decodes matches the row of its command, so this one decodes to none. -/
theorem illegalWordRaises : Obligations.IllegalWordRaises := by
  refine fun s cw p rest hpending hnoRow => step_of_not_decodes hpending fun i hi => ?_
  obtain ⟨row, hrow, hmatches⟩ := (wordSelectsRow cw).2 ⟨i, hi⟩
  exact hnoRow row hrow hmatches

/-- Settles O24: the verdict of the command's body is the least of the causes that apply, or an answer when none does. -/
theorem smallestFaultReported : Obligations.SmallestFaultReported := by
  refine ⟨fun i s => ?_, fun s cw p rest => step_of_not_decodes⟩
  obtain ⟨r, hexec, hverdict⟩ := exec_verdict i s
  cases hverdict with
  | answer t out ht hnone =>
    exact ⟨fun n hn => absurd hn.1 (hnone n), fun _ => ⟨t, out, hexec, ht.FAULTS_eq, ht.responses_eq⟩⟩
  | fault f hcause hleast =>
    refine ⟨fun n ⟨hn, hmin⟩ => ?_, fun hnone => absurd hcause (hnone _)⟩
    have hcode : codeNumber f = n := Nat.le_antisymm (hleast n hn) (hmin _ hcause)
    rw [hexec, finish_error, hcode]

end Sys2Proof.Safety
end

section
/-! What a fault leaves unchanged, the reset action, and that no run stops (spec/60_exceptions.md R199, R204;
spec/70_reset_and_hazards.md R220, R230). -/

namespace Sys2Proof.Safety

open Sys2Proof Sys2Proof.Machine

/-- The end of a command whose new response has a nonzero status is a fault with that status as its code. -/
theorem eq_faulted_of_ends {s u : State} {st : Byte} {out : Bytes} (h : Ends s u)
    (hresponse : u.responses = s.responses ++ [⟨st, out⟩]) (hst : st ≠ 0x00#8) : u = faulted s st.toNat := by
  cases h with
  | answer t out' ht =>
    rw [respond_responses, ht.responses_eq, List.append_cancel_left_eq] at hresponse
    cases hresponse
    exact absurd rfl hst
  | fault f =>
    rw [raise_responses, List.append_cancel_left_eq] at hresponse
    cases hresponse
    rw [codeByte_toNat, raise_eq_faulted]

/-- Settles O25: a command ends with an answer, whose status is zero, or with a fault. -/
theorem faultEntryChangesOnlyFaults : Obligations.FaultEntryChangesOnlyFaults := by
  intro i s t st out h hresponse hst
  obtain ⟨u, hu, hends⟩ := exec_ends i s
  obtain rfl : u = t := Host.Outcome.next.inj (hu.symm.trans h)
  exact eq_faulted_of_ends hends hresponse hst

/-- Settles O27: every step answers a next state. -/
theorem noRunStops : Obligations.NoRunStops := by
  intro k
  induction k with
  | zero => exact fun s => ⟨s, rfl⟩
  | succ k ih =>
    intro s
    obtain ⟨t, ht⟩ := step_total s
    rw [run_succ_of_step ht]
    exact ih t

/-- Settles O7: between host actions the core holds its state. -/
theorem holdsBetweenActions : Obligations.HoldsBetweenActions := fun _ => step_of_pending_nil

/-- Settles O8: the reset action is `takeReset`, which puts free bytes in `S` and `RK`. -/
theorem resetActionClears : Obligations.ResetActionClears := fun s _ hpending =>
  ⟨freeBlock s.freeCount, freeSchedule (s.freeCount + 16), s.freeCount + 192, step_of_pending_reset hpending⟩

end Sys2Proof.Safety
end
